-- ==== Sys2Proof/Word.lean ====
section
/-!
DEFINITION. The widths of R8 and R9: a byte (u8) and a half-word (u16). An i8 is a byte read through
`BitVec.toInt`.
-/
namespace Sys2Proof

/-- An unsigned byte, `u8` (R9). -/
abbrev Byte := BitVec 8

/-- An unsigned 16-bit number, `u16` (R9): the id of a valve report. -/
abbrev Half := BitVec 16

end Sys2Proof
end

