-- ==== Sys2Proof/Config.lean ====
section
/-!
DEFINITION. The implementation parameters of R7: the fixed constants, the record of the parameters that one
machine may have otherwise than another, and the values that no rule gives (opaque).
-/
namespace Sys2Proof

/-! ### The parameters marked fixed or derived in R7 -/

/-- `N_SLOTS`: the aggregator's slot count (R7, R44). -/
def nSlots : Nat := 8
/-- `LIVE_TICKS`: the `ticksUntilOff` that a report writes (R7, R220). -/
def liveTicks : Byte := 60
/-- `COUNTDOWN_START`: the first countdown value (R7, R174). -/
def countdownStart : Byte := 241
/-- `FINAL_BASE`: half-seconds added to `hc2 & 7` for the final delay (R7, R181). -/
def finalBase : Byte := 8
/-- `GAP_BASE`: half-seconds added to `hc2 & 7` for the steady period (R7, R181). -/
def gapBase : Byte := 230
/-- `CHECKSUM_SEED`: where the checksum starts (R7, R98). -/
def checksumSeed : Byte := 0x0C
/-- `PREAMBLE_ZERO_BITS`: encoded zeros before the leading one (R7, R101). -/
def preambleZeroBits : Nat := 12
/-- `FRAME_BUF_SIZE`: the transmit buffer's bytes, the sentinel's among them (R7, R109). -/
def frameBufSize : Nat := 46
/-- The sentinel that ends an encoded buffer (R103), also what a reset writes to the buffer (R188). -/
def sentinel : Byte := 0xFF
/-- The id of an empty slot (R45). -/
def emptyId : Half := 0xFFFF

/-! ### The configuration record -/

/-- `M` of R7, the half-second boundaries of a minor cycle: the allowed values are 2 (a cycle of one second)
and 4 (a cycle of two seconds), and no other. -/
inductive MinorCycle where
  | oneSecond
  | twoSeconds
deriving DecidableEq, Repr

/-- `M` as a number (R7). -/
def MinorCycle.boundaries : MinorCycle → Nat
  | .oneSecond => 2
  | .twoSeconds => 4

/-- The parameters of R7 whose value a machine may choose (decided with a default, or OPEN). It is fixed for the
life of a machine (R57). -/
structure Config where
  /-- `M`; default 4 -/
  minorCycle : MinorCycle
  /-- `OPC_VALVE_SET`; default 0x26 -/
  opcValveSet : Byte
  /-- `OPC_SYNC_COUNTDOWN`; default 0x2C -/
  opcSyncCountdown : Byte
  /-- `OPC_SYNC_FINAL`; default 0x20 -/
  opcSyncFinal : Byte
  /-- `MIN_MEANINGFUL_OPEN_PCT`, 0..100; OPEN -/
  minMeaningfulOpenPct : Fin 101
  /-- `MIN_TICKS_IN_EITHER_STATE`, 0..255; OPEN -/
  minTicksInEitherState : Byte
  /-- `RESET_MIN_INDIVIDUAL`, any u8; OPEN -/
  resetMinIndividual : Byte
  /-- `RESET_MIN_AGGREGATE`, any u8; OPEN -/
  resetMinAggregate : Byte
deriving DecidableEq, Repr

/-- `M` of a machine, as a number. -/
def Config.boundaries (c : Config) : Nat := c.minorCycle.boundaries

/-- R7: the three `OPC_*` values must be pairwise distinct. -/
abbrev Config.Legal (c : Config) : Prop :=
  c.opcValveSet ≠ c.opcSyncCountdown ∧ c.opcValveSet ≠ c.opcSyncFinal ∧ c.opcSyncCountdown ≠ c.opcSyncFinal

/-! ### Values that no rule gives: constants without a body -/

/-- The OPEN parameter `MIN_MEANINGFUL_OPEN_PCT` of the machine that is reset (R7, D29). Log entry 2. -/
opaque Config.openMinMeaningfulOpenPct : Fin 101
/-- The OPEN parameter `MIN_TICKS_IN_EITHER_STATE` of the machine that is reset (R7, D34). Log entry 2. -/
opaque Config.openMinTicksInEitherState : Byte
/-- The OPEN parameter `RESET_MIN_INDIVIDUAL` of the machine that is reset (R7, D35). Log entry 2. -/
opaque Config.openResetMinIndividual : Byte
/-- The OPEN parameter `RESET_MIN_AGGREGATE` of the machine that is reset (R7, D35). Log entry 2. -/
opaque Config.openResetMinAggregate : Byte
/-- The result of the n-th `send` call since reset, where the environment has supplied none: the draw
`sendOk_k : Bool` of R54, which the block does not choose. Log entry 3. -/
opaque Config.sendOk : Nat → Bool

/-- The configuration of the machine after `State.reset`: the decided parameters at the defaults of R7, each OPEN
one a constant of which nothing is known. Log entries 1 and 2. -/
def Config.delivered : Config where
  minorCycle := .twoSeconds
  opcValveSet := 0x26
  opcSyncCountdown := 0x2C
  opcSyncFinal := 0x20
  minMeaningfulOpenPct := Config.openMinMeaningfulOpenPct
  minTicksInEitherState := Config.openMinTicksInEitherState
  resetMinIndividual := Config.openResetMinIndividual
  resetMinAggregate := Config.openResetMinAggregate

end Sys2Proof
end

