-- ==== Sys2Proof/Machine/Operands.lean ====
section
/-!
DEFINITION. Operand preparation: bit and byte order, parity, checksum, and the clamps and scalings that the rules apply
to an operand before they use it.
-/
namespace Sys2Proof

/-- The bits of a byte, the most significant first (R71, R92, R96). -/
def bitsMsbFirst (v : Byte) : List Bool :=
  [v.getLsbD 7, v.getLsbD 6, v.getLsbD 5, v.getLsbD 4, v.getLsbD 3, v.getLsbD 2, v.getLsbD 1, v.getLsbD 0]

/-- The byte whose bits, the most significant first, are these. -/
def byteOfBits (bits : List Bool) : Byte :=
  BitVec.ofNat 8 (bits.foldl (fun v b => 2 * v + b.toNat) 0)

/-- `popcount(v)` (R9): the number of 1 bits of a byte. -/
def popcount (v : Byte) : Nat := (bitsMsbFirst v).count true

/-- The even-parity bit of a protected byte, `popcount(v) mod 2` (R95). -/
def parityBit (v : Byte) : Bool := popcount v % 2 == 1

/-- The checksum over the five bytes that stand before it, modulo 256, the address byte among them (R98, R145). -/
def checksum (hc1 hc2 addr opcode ext : Byte) : Byte :=
  checksumSeed + hc1 + hc2 + addr + opcode + ext

/-- `clamp(x, lo, hi)` of R9 on a byte. -/
def clampByte (x : Byte) (lo hi : Nat) : Byte := BitVec.ofNat 8 (min (max x.toNat lo) hi)

/-- `pct' = min(pct, 100)`: the percent of SYNC_FIRST and SYNC_NEXT as every rule uses it (R170). -/
def preparePct (pct : Byte) : Byte := clampByte pct 0 100

/-- `scale(pct) = (pct * 255 + 50) div 100`: the extension of a VALVE_SET frame (R150). -/
def scale (pct : Byte) : Byte := BitVec.ofNat 8 ((pct.toNat * 255 + 50) / 100)

/-- The percent of 0..100 that scales to an extension, if there is one: `scale` read backwards. -/
def unscale (ext : Byte) : Option Byte :=
  ((List.range 101).map (BitVec.ofNat 8)).find? (fun pct => scale pct == ext)

/-- `mi = min(max(a, 1), 100)` of `Coerce(a, b)` (R234). -/
def coerceIndividual (a : Byte) : Byte := clampByte a 1 100

/-- `ma = min(max(b, mi), 100)` of `Coerce(a, b)` (R234). -/
def coerceAggregate (a b : Byte) : Byte := clampByte b (coerceIndividual a).toNat 100

/-- A u16 operand from its two bytes, the high byte first (R91, R117). -/
def halfOfBytes (hi lo : Byte) : Half := hi ++ lo

/-- The high byte of a u16 operand (R91). -/
def highByte (v : Half) : Byte := v.extractLsb' 8 8

/-- The low byte of a u16 operand (R91). -/
def lowByte (v : Half) : Byte := v.extractLsb' 0 8

/-- A Boolean as a payload byte: 0 or 1 (R116). -/
def boolByte (b : Bool) : Byte := if b then 1 else 0

end Sys2Proof
end

