-- ==== Sys2Proof/Syntax.lean ====
section
/-!
DEFINITION. The instructions: the 13 requests of R90 and the three frame kinds of R107, one constructor per row of
the opcode table. A u16 operand stands assembled (R117), and the flags byte of SYNC_FIRST and SYNC_NEXT as its one
bit `allowDoubleTX` (R91).
-/
namespace Sys2Proof

/-- One instruction: a request as it reaches the request port (R90, R91), or a frame command that the SyncEngine
composes inside a request (R107). -/
inductive Instr where
  /-- ENCODE (R132): make the encoded buffer of a command record. -/
  | encode (hc1 hc2 opcode ext : Byte)
  /-- DECODE (R147): read a command record from the bytes `b0 .. b(L-1)`; `L` is their number. -/
  | decode (bytes : List Byte)
  /-- SYNC_FIRST (R171): half-second boundary 0 of a minor cycle. -/
  | syncFirst (pct : Byte) (allowDoubleTX : Bool)
  /-- SYNC_NEXT (R172): the next half-second boundary of the minor cycle. -/
  | syncNext (pct : Byte) (allowDoubleTX : Bool)
  /-- SYNC_RESET (R189). -/
  | syncReset
  /-- SET_HOUSE_CODE (R190). -/
  | setHouseCode (hc1 hc2 : Byte)
  /-- IS_LOCKED (R192). -/
  | isLocked
  /-- GET_COMMANDED_PCT (R193). -/
  | getCommandedPct
  /-- GET_OPEN_FLAG (R196). -/
  | getOpenFlag
  /-- SUBMIT_REPORT (R221). -/
  | submitReport (id : Half) (pct : Byte)
  /-- AGG_TICK (R230). -/
  | aggTick
  /-- SET_THRESHOLDS (R235). -/
  | setThresholds (minIndividual minAggregate : Byte)
  /-- IS_CALLING_FOR_HEAT (R236). -/
  | isCallingForHeat
  /-- VALVE_SET (R151), a frame kind: its house codes are the SyncEngine's own. -/
  | valveSet (pct : Byte)
  /-- SYNC_COUNTDOWN (R152), a frame kind. -/
  | syncCountdown (countdown : Byte)
  /-- SYNC_FINAL (R153), a frame kind. -/
  | syncFinal
deriving DecidableEq, Repr

end Sys2Proof
end

