-- ==== Sys2Proof/WellFormed.lean ====
section
/-!
DEFINITION. The operand ranges that the spec puts on an instruction beyond the widths of its operands.
-/
namespace Sys2Proof

/-- DECODE's operand length is the u8 `L` (R91, R147); a VALVE_SET percent is in 0..100 (R151); a SYNC_COUNTDOWN value
is odd and in 3..241 (R152). Every other operand is unrestricted (R266). -/
def Instr.wellFormed : Instr → Bool
  | .encode _ _ _ _ => true
  | .decode bytes => decide (bytes.length ≤ 255)
  | .syncFirst _ _ => true
  | .syncNext _ _ => true
  | .syncReset => true
  | .setHouseCode _ _ => true
  | .isLocked => true
  | .getCommandedPct => true
  | .getOpenFlag => true
  | .submitReport _ _ => true
  | .aggTick => true
  | .setThresholds _ _ => true
  | .isCallingForHeat => true
  | .valveSet pct => decide (pct.toNat ≤ 100)
  | .syncCountdown c => decide (c.toNat % 2 = 1 ∧ 3 ≤ c.toNat ∧ c.toNat ≤ 241)
  | .syncFinal => true

/-- The 13 operations that the request port accepts (R90); the other three are frame kinds (R107), which no request
packet selects. -/
def Instr.isRequest : Instr → Bool
  | .encode _ _ _ _ => true
  | .decode _ => true
  | .syncFirst _ _ => true
  | .syncNext _ _ => true
  | .syncReset => true
  | .setHouseCode _ _ => true
  | .isLocked => true
  | .getCommandedPct => true
  | .getOpenFlag => true
  | .submitReport _ _ => true
  | .aggTick => true
  | .setThresholds _ _ => true
  | .isCallingForHeat => true
  | .valveSet _ => false
  | .syncCountdown _ => false
  | .syncFinal => false

end Sys2Proof
end

