-- ==== Sys2Proof/Decode.lean ====
section
/-!
DEFINITION. The decoder and the encoder of the two encodings of 30_encoding.md: request packets (R90, R91, R110) and the
six protected bytes of a frame (R97, R98, R107). Then `decodeTableWord`, by which the host reads a row of the opcode table.
-/
namespace Sys2Proof

/-- Why a byte sequence is no instruction. The first three are the reasons of R110 for which a request packet is
refused; the others belong to the protected bytes of a frame. -/
inductive Illegal where
  /-- the op byte is not in the table of R90 (R110 item 1) -/
  | unknownOp
  /-- the packet's length is not the one R91 gives, or it is empty (R110 item 2) -/
  | wrongLength
  /-- bits 7:1 of the flags byte are not all 0 (R110 item 3) -/
  | reservedFlags
  /-- not six protected bytes (R97) -/
  | notSixBytes
  /-- the address placeholder is not 0 (R97) -/
  | addressNotZero
  /-- the sixth byte is not the checksum of the five before it (R98) -/
  | wrongChecksum
  /-- the opcode byte is none of the three frame kinds (R107) -/
  | unknownKind
  /-- the extension is not one that the kind carries: no scaled percent, or not 0 for SYNC_FINAL (R107) -/
  | wrongExtension
deriving DecidableEq, Repr

/-- What an instruction is written as: a request packet (R91), or the six protected bytes of a frame (R97). -/
inductive Encoded where
  | packet (bytes : List Byte)
  | frame (protectedBytes : List Byte)
deriving DecidableEq, Repr

/-- SYNC_FIRST and SYNC_NEXT: the `pct` and `flags` bytes. Bit 0 of flags is `allowDoubleTX`; bits 7:1 must be 0
(R91, R110 item 3). -/
def decodeSyncArgs (make : Byte → Bool → Instr) : List Byte → Except Illegal Instr
  | [pct, flags] => if flags &&& 0xFE#8 = 0#8 then .ok (make pct (flags.getLsbD 0)) else .error .reservedFlags
  | _ => .error .wrongLength

/-- A request that has no argument bytes. -/
def decodeNoArgs (i : Instr) : List Byte → Except Illegal Instr
  | [] => .ok i
  | _ :: _ => .error .wrongLength

/-- Reading a request packet: the op byte selects the operation (R90), the other bytes are its arguments and their
number must be the one R91 gives (R110). -/
def decodePacket : List Byte → Except Illegal Instr
  | [] => .error .wrongLength
  | op :: args =>
    match op with
    | 0x01#8 =>
      match args with
      | [hc1, hc2, opcode, ext] => .ok (.encode hc1 hc2 opcode ext)
      | _ => .error .wrongLength
    | 0x02#8 =>
      match args with
      | l :: bytes => if bytes.length = l.toNat then .ok (.decode bytes) else .error .wrongLength
      | [] => .error .wrongLength
    | 0x10#8 => decodeSyncArgs .syncFirst args
    | 0x11#8 => decodeSyncArgs .syncNext args
    | 0x12#8 => decodeNoArgs .syncReset args
    | 0x13#8 =>
      match args with
      | [hc1, hc2] => .ok (.setHouseCode hc1 hc2)
      | _ => .error .wrongLength
    | 0x14#8 => decodeNoArgs .isLocked args
    | 0x15#8 => decodeNoArgs .getCommandedPct args
    | 0x16#8 => decodeNoArgs .getOpenFlag args
    | 0x20#8 =>
      match args with
      | [idHi, idLo, pct] => .ok (.submitReport (halfOfBytes idHi idLo) pct)
      | _ => .error .wrongLength
    | 0x21#8 => decodeNoArgs .aggTick args
    | 0x22#8 =>
      match args with
      | [a, b] => .ok (.setThresholds a b)
      | _ => .error .wrongLength
    | 0x23#8 => decodeNoArgs .isCallingForHeat args
    | _ => .error .unknownOp

/-- Telling the frame kinds apart by the opcode byte, and reading the operand back from the extension (R107). -/
def decodeKind (cfg : Config) (opcode ext : Byte) : Except Illegal Instr :=
  if opcode = cfg.opcValveSet then
    match unscale ext with
    | some pct => .ok (.valveSet pct)
    | none => .error .wrongExtension
  else if opcode = cfg.opcSyncCountdown then .ok (.syncCountdown ext)
  else if opcode = cfg.opcSyncFinal then
    if ext = 0#8 then .ok .syncFinal else .error .wrongExtension
  else .error .unknownKind

/-- Reading the six protected bytes of a frame the SyncEngine composed: house code 1, house code 2, the address
placeholder, opcode, extension, checksum (R97, R98). -/
def decodeProtected (cfg : Config) : List Byte → Except Illegal Instr
  | [hc1, hc2, addr, opcode, ext, cs] =>
    if addr ≠ 0#8 then .error .addressNotZero
    else if cs ≠ checksum hc1 hc2 addr opcode ext then .error .wrongChecksum
    else decodeKind cfg opcode ext
  | _ => .error .notSixBytes

/-- The decoder: total on any bytes, rejecting by name. -/
def decode (cfg : Config) : Encoded → Except Illegal Instr
  | .packet bytes => decodePacket bytes
  | .frame protectedBytes => decodeProtected cfg protectedBytes

/-- The six protected bytes of a frame (R97): the address placeholder is 0 and the checksum is computed (R98). -/
def protectedBytes (hc1 hc2 opcode ext : Byte) : List Byte :=
  [hc1, hc2, 0, opcode, ext, checksum hc1 hc2 0 opcode ext]

/-- The encoder: the packet of a request (R91), or the protected bytes of a frame of the house-code pair (R97, R107). -/
def encode (cfg : Config) (hc1 hc2 : Byte) : Instr → Encoded
  | .encode a b opcode ext => .packet [0x01, a, b, opcode, ext]
  | .decode bytes => .packet (0x02 :: BitVec.ofNat 8 bytes.length :: bytes)
  | .syncFirst pct dbl => .packet [0x10, pct, boolByte dbl]
  | .syncNext pct dbl => .packet [0x11, pct, boolByte dbl]
  | .syncReset => .packet [0x12]
  | .setHouseCode a b => .packet [0x13, a, b]
  | .isLocked => .packet [0x14]
  | .getCommandedPct => .packet [0x15]
  | .getOpenFlag => .packet [0x16]
  | .submitReport id pct => .packet [0x20, highByte id, lowByte id, pct]
  | .aggTick => .packet [0x21]
  | .setThresholds a b => .packet [0x22, a, b]
  | .isCallingForHeat => .packet [0x23]
  | .valveSet pct => .frame (protectedBytes hc1 hc2 cfg.opcValveSet (scale pct))
  | .syncCountdown c => .frame (protectedBytes hc1 hc2 cfg.opcSyncCountdown c)
  | .syncFinal => .frame (protectedBytes hc1 hc2 cfg.opcSyncFinal 0)

/-! ### Words of the opcode table -/

/-- The length R91 gives a packet that begins with these bytes, where they decide it. -/
def packetLength : List Byte → Nat
  | [] => 0
  | op :: args =>
    match op with
    | 0x01#8 => 5
    | 0x02#8 => 2 + (args.headD 0).toNat
    | 0x10#8 => 3
    | 0x11#8 => 3
    | 0x13#8 => 3
    | 0x20#8 => 4
    | 0x22#8 => 3
    | _ => 1

/-- The `nbits / 8` bytes of a table word, byte 0 being its least significant eight bits. -/
def tableBytes (nbits w : Nat) : List Byte :=
  (List.range (nbits / 8)).map (fun k => BitVec.ofNat 8 (w >>> (8 * k)))

/-- A table word as a request packet: its bytes, then zero bytes up to the length R91 gives that packet. -/
def tablePacket (nbits w : Nat) : List Byte :=
  let bytes := tableBytes nbits w
  bytes ++ List.replicate (packetLength bytes - bytes.length) 0

/-- A table word of one byte as a frame: the opcode protected byte of a frame whose other record bytes are 0 and whose
checksum is computed, as the rows of the frame kinds say of themselves. -/
def tableFrame (nbits w : Nat) : List Byte :=
  match tableBytes nbits w with
  | [opcode] => protectedBytes 0 0 opcode 0
  | _ => []

/-- The instruction the decoder reads from a table word: as a request packet; a word that is none is read as a frame's
opcode byte (log entry 5). -/
def decodeTableWord (nbits w : Nat) : Option Instr :=
  match decode Config.delivered (.packet (tablePacket nbits w)) with
  | .ok i => some i
  | .error _ =>
    match decode Config.delivered (.frame (tableFrame nbits w)) with
    | .ok i => some i
    | .error _ => none

end Sys2Proof
end

