-- ==== Sys2Proof/Machine/Codec.lean ====
section
/-!
DEFINITION. The FrameCodec's two functions (40_framecodec.md): `encodeFrame`, from a command record to an encoded buffer,
and `decodeFrame`, from any bytes to a command record or one error kind. They have no state (R32).
-/
namespace Sys2Proof.Machine

/-! ### Encoding -/

/-- `E(b)`: the symbol string of a logical bit, `1100` or `111000` (R93). A symbol is a Boolean. -/
def bitSymbols : Bool → List Bool
  | false => [true, true, false, false]
  | true => [true, true, true, false, false, false]

/-- The symbols of a sequence of logical bits. -/
def symbolsOf (bits : List Bool) : List Bool := bits.flatMap bitSymbols

/-- The nine logical bits of a protected byte: its data bits, the most significant first, then its parity (R96). -/
def protectedBits (v : Byte) : List Bool := bitsMsbFirst v ++ [parityBit v]

/-- `B(v)`: the symbols of a protected byte (R96). -/
def byteSymbols (v : Byte) : List Bool := symbolsOf (protectedBits v)

/-- `S(cmd)`: the symbol stream of a command record (R99): preamble, leading one, six protected bytes, trailer, flush. -/
def frameSymbols (hc1 hc2 opcode ext : Byte) : List Bool :=
  symbolsOf (List.replicate preambleZeroBits false)
    ++ bitSymbols true
    ++ byteSymbols hc1 ++ byteSymbols hc2 ++ byteSymbols 0 ++ byteSymbols opcode ++ byteSymbols ext
    ++ byteSymbols (checksum hc1 hc2 0 opcode ext)
    ++ bitSymbols false
    ++ bitSymbols false

/-- Symbols into buffer bytes, eight a byte, the first symbol in bit 7; the low bits of a last byte that is not filled
are 0 (R92, R102). -/
def packSymbols : List Bool → List Byte
  | s0 :: s1 :: s2 :: s3 :: s4 :: s5 :: s6 :: s7 :: rest =>
    byteOfBits [s0, s1, s2, s3, s4, s5, s6, s7] :: packSymbols rest
  | [] => []
  | part => [byteOfBits (part ++ List.replicate (8 - part.length) false)]

/-- The meaningful bytes of an encoded buffer: the encoded frame (R102, R103). -/
def frameBytes (hc1 hc2 opcode ext : Byte) : List Byte := packSymbols (frameSymbols hc1 hc2 opcode ext)

/-- `EncodeFrame`: the meaningful bytes and the sentinel (R131). -/
def encodeFrame (hc1 hc2 opcode ext : Byte) : List Byte := frameBytes hc1 hc2 opcode ext ++ [sentinel]

/-! ### Decoding -/

/-- A command record, `ValveCommand` (R12). -/
structure Command where
  hc1 : Byte
  hc2 : Byte
  opcode : Byte
  ext : Byte
deriving DecidableEq, Repr

/-- The six decode error kinds (R261, R262). -/
inductive DecodeError where
  | truncatedStream
  | badLeadingEdge
  | badSymbolPair
  | parityMismatch
  | checksumMismatch
  | missingTrailer
deriving DecidableEq, Repr

/-- The symbols of a byte buffer in order (R92, R140). What is still to be read of them stands for the cursor. -/
def bufferSymbols (bytes : List Byte) : List Bool := bytes.flatMap bitsMsbFirst

/-- `ReadPair()` (R141): the next two symbols, and what follows them. -/
def readPair : List Bool → Except DecodeError ((Bool × Bool) × List Bool)
  | a :: b :: rest => .ok ((a, b), rest)
  | _ => .error .truncatedStream

/-- `ReadBit()` (R142): one logical bit, and what follows it. -/
def readBit (s : List Bool) : Except DecodeError (Bool × List Bool) :=
  match readPair s with
  | .error e => .error e
  | .ok (p, s1) =>
    if p ≠ (true, true) then .error .badLeadingEdge
    else
      match readPair s1 with
      | .error e => .error e
      | .ok (q, s2) =>
        if q = (false, false) then .ok (false, s2)
        else if q = (true, false) then
          match readPair s2 with
          | .error e => .error e
          | .ok (r, s3) => if r ≠ (false, false) then .error .badSymbolPair else .ok (true, s3)
        else .error .badSymbolPair

/-- The leading-one scan (R143): `ReadBit` until it answers 1. The first argument bounds the number of reads; `decodeFrame`
gives it one more than there are symbols, which no scan uses up. -/
def scanLeadingOne : Nat → List Bool → Except DecodeError (List Bool)
  | 0, _ => .error .truncatedStream
  | n + 1, s =>
    match readBit s with
    | .error e => .error e
    | .ok (true, rest) => .ok rest
    | .ok (false, rest) => scanLeadingOne n rest

/-- `n` logical bits, the most significant first, onto the value `v` read so far (R144). -/
def readBits : Nat → Byte → List Bool → Except DecodeError (Byte × List Bool)
  | 0, v, s => .ok (v, s)
  | n + 1, v, s =>
    match readBit s with
    | .error e => .error e
    | .ok (b, rest) => readBits n (2 * v + boolByte b) rest

/-- `ReadByteWithParity()` (R144): the parity is checked right after the byte's parity bit. -/
def readByteWithParity (s : List Bool) : Except DecodeError (Byte × List Bool) :=
  match readBits 8 0 s with
  | .error e => .error e
  | .ok (v, s1) =>
    match readBit s1 with
    | .error e => .error e
    | .ok (p, s2) => if (popcount v + p.toNat) % 2 ≠ 0 then .error .parityMismatch else .ok (v, s2)

/-- `n` protected bytes in order (R140, R144). -/
def readBytes : Nat → List Bool → Except DecodeError (List Byte × List Bool)
  | 0, s => .ok ([], s)
  | n + 1, s =>
    match readByteWithParity s with
    | .error e => .error e
    | .ok (v, s1) =>
      match readBytes n s1 with
      | .error e => .error e
      | .ok (vs, s2) => .ok (v :: vs, s2)

/-- `CheckTrailer` (R146): what follows the trailer is not read. -/
def checkTrailer (s : List Bool) : Except DecodeError Unit :=
  match readBit s with
  | .error e => .error e
  | .ok (true, _) => .error .missingTrailer
  | .ok (false, _) => .ok ()

/-- `CheckChecksum` (R145), then `CheckTrailer` (R146), then the record; the address byte as read takes part in the sum
and is dropped (R140). -/
def finishDecode (vs : List Byte) (s : List Bool) : Except DecodeError Command :=
  match vs with
  | [hc1, hc2, addr, opcode, ext, cs] =>
    if checksum hc1 hc2 addr opcode ext ≠ cs then .error .checksumMismatch
    else
      match checkTrailer s with
      | .error e => .error e
      | .ok () => .ok { hc1, hc2, opcode, ext }
  | _ => .error .truncatedStream

/-- The decoder over a symbol stream (R140). -/
def decodeSymbols (s : List Bool) : Except DecodeError Command :=
  match scanLeadingOne (s.length + 1) s with
  | .error e => .error e
  | .ok s1 =>
    match readBytes 6 s1 with
    | .error e => .error e
    | .ok (vs, s2) => finishDecode vs s2

/-- `DecodeFrame` (R140): total on any bytes (R130); the first failing step names the error (R148). -/
def decodeFrame (bytes : List Byte) : Except DecodeError Command := decodeSymbols (bufferSymbols bytes)

end Sys2Proof.Machine
end

