-- ==== Sys2Proof/Machine/State.lean ====
section
/-!
DEFINITION. Everything the spec gives the machine to hold (10_state.md), as plain data, with the request port and the
output channels of R3; the two reason types; and the state after power-on reset (R55, R290).
-/
namespace Sys2Proof.Machine

/-! ### The SyncEngine -/

/-- `SE.phase` (R34). The spec's numbers 0..3 are read by no request. -/
inductive Phase where
  | unsynced
  | countingDown
  | awaitingFinal
  | locked
deriving DecidableEq, Repr

/-- The registers of the SyncEngine (R33 to R42). -/
structure SyncEngine where
  /-- `SE.hc1` (R33) -/
  hc1 : Byte
  /-- `SE.hc2` (R33) -/
  hc2 : Byte
  /-- `SE.phase` (R34) -/
  phase : Phase
  /-- `SE.countdown` (R35) -/
  countdown : Byte
  /-- `SE.ticksToFinal`, the due index of the sync-final (R36) -/
  ticksToFinal : Byte
  /-- `SE.ticksToNextTx`, the due index of the next steady send (R37) -/
  ticksToNextTx : Byte
  /-- `SE.lastCommandedOpenFlag`, `SE.flag` in the pseudocode (R39) -/
  flag : Bool
  /-- `SE.commandedPercent` (R40) -/
  commandedPercent : Byte
  /-- `SE.h`, the half-second boundary of the last call (R41) -/
  h : Byte
  /-- `SE.txBuffer`, the transmit buffer, `frameBufSize` bytes (R42) -/
  txBuffer : List Byte
deriving DecidableEq, Repr

/-! ### The BoilerAggregator -/

/-- One slot of the PerIDStatus table (R44). -/
structure Slot where
  /-- the reporting valve's id; `emptyId` marks an empty slot (R45) -/
  id : Half
  /-- `ticksUntilOff`, an i8 (R44) -/
  ticksUntilOff : Byte
  /-- `percentOpen` (R44) -/
  percentOpen : Byte
deriving DecidableEq, Repr

/-- The slot that `Free` writes (R220), also every slot after reset (R55). -/
def Slot.empty : Slot := { id := emptyId, ticksUntilOff := 0, percentOpen := 0 }

/-- The registers of the BoilerAggregator (R44 to R48). -/
structure Aggregator where
  /-- `AG.slot[0..7]`, `nSlots` slots (R44) -/
  slots : List Slot
  /-- `AG.callForHeat` (R46), also the call-for-heat level output (R237) -/
  callForHeat : Bool
  /-- `AG.ticksInCurrentState` (R47) -/
  ticksInCurrentState : Byte
  /-- `AG.minIndividual` (R48) -/
  minIndividual : Byte
  /-- `AG.minAggregate` (R48) -/
  minAggregate : Byte
deriving DecidableEq, Repr

/-! ### The request port and the output channels -/

/-- The number of copies of a transmission event: 1 or 2 (R53). -/
inductive Copies where
  | one
  | two
deriving DecidableEq, Repr

/-- A transmission event `TX(frame, copies)` (R53), with the `send` results drawn for it, one per copy (R54, R307
item 2). -/
structure TxEvent where
  frame : List Byte
  copies : Copies
  sendOk : List Bool
deriving DecidableEq, Repr

/-- The interface of the block (R3, R306): what the environment has put in, what the block has put out. -/
structure Io where
  /-- request packets that have arrived and are not served yet, the first to serve first (R75, R91) -/
  requests : List (List Byte)
  /-- `send` results the environment has decided on for the next copies, in order (R54) -/
  sendResults : List Bool
  /-- the model's own counter: how many `send` results have been drawn (log entry 3) -/
  drawCount : Nat
  /-- the responses given, in request order (R116, R307 item 1) -/
  responses : List (List Byte)
  /-- the radio-transmit channel: the events emitted, in order (R53) -/
  events : List TxEvent
deriving DecidableEq, Repr

/-- The state of the block (R3, R30), with the configuration it was built with (R57; log entry 1). -/
structure State where
  cfg : Config
  se : SyncEngine
  ag : Aggregator
  io : Io
deriving DecidableEq, Repr

/-! ### Reasons to stop -/

/-- A fault that stops the machine. There is none: a request fault of the spec is a response, after which the run goes on
(R260, R268, R307). Safe: nothing is stopped. -/
inductive Fault where
deriving DecidableEq, Repr

/-- A refusal. -/
inductive Refusal where
  /-- an instruction that has no meaning yet, by its mnemonic; raised by `exec` alone, for no instruction now (safe) -/
  | notModelled (mnemonic : String)
deriving DecidableEq, Repr

/-! ### Reset -/

/-- The SyncEngine after power-on reset (R55). -/
def SyncEngine.reset : SyncEngine where
  hc1 := 0xFF
  hc2 := 0xFF
  phase := .unsynced
  countdown := 0
  ticksToFinal := 0
  ticksToNextTx := 0
  flag := false
  commandedPercent := 0
  h := 0
  txBuffer := List.replicate frameBufSize sentinel

/-- The BoilerAggregator after power-on reset: an empty table, and the thresholds by the coercion of the two reset
parameters (R55). -/
def Aggregator.reset (cfg : Config) : Aggregator where
  slots := List.replicate nSlots Slot.empty
  callForHeat := false
  ticksInCurrentState := 0
  minIndividual := coerceIndividual cfg.resetMinIndividual
  minAggregate := coerceAggregate cfg.resetMinIndividual cfg.resetMinAggregate

/-- Nothing has arrived at the port and nothing has been put out (R55, R290). -/
def Io.reset : Io where
  requests := []
  sendResults := []
  drawCount := 0
  responses := []
  events := []

/-- Power-on reset of a machine of a given configuration (R55, R57, R290). -/
def State.resetWith (cfg : Config) : State where
  cfg := cfg
  se := SyncEngine.reset
  ag := Aggregator.reset cfg
  io := Io.reset

/-- The machine right after power-on reset (R55, R290). -/
def State.reset : State := State.resetWith Config.delivered

end Sys2Proof.Machine
end

