-- ==== Sys2Proof/Machine/Flags.lean ====
section
/-!
DEFINITION. The values a caller tests (R51: response bits, not a status register): the status bytes (R262), the `needMore`
bit (R182), and how the two state bits of flag character come about: `SE.flag` (R183) and the call-for-heat decision
(R228, R233).
-/
namespace Sys2Proof.Machine

/-! ### Status bytes -/

/-- Status OK (R262). -/
def statusOk : Byte := 0x00

/-- The status byte of a decode error (R262). -/
def DecodeError.status : DecodeError → Byte
  | .truncatedStream => 0x01
  | .badLeadingEdge => 0x02
  | .badSymbolPair => 0x03
  | .parityMismatch => 0x04
  | .checksumMismatch => 0x05
  | .missingTrailer => 0x06

/-- The two request faults (R263, R264). -/
inductive RequestFault where
  | illegalRequest
  | halfSecondOverrun
deriving DecidableEq, Repr

/-- The status byte of a request fault (R262). -/
def RequestFault.status : RequestFault → Byte
  | .illegalRequest => 0x80
  | .halfSecondOverrun => 0x81

/-! ### The SyncEngine's flag values -/

/-- The house-code pair is valid iff both codes are at most 99 (R33). -/
def SyncEngine.housePairValid (se : SyncEngine) : Bool := decide (se.hc1.toNat ≤ 99 ∧ se.hc2.toNat ≤ 99)

/-- `NeedMore()` (R182): a later boundary of this minor cycle would act. -/
def needMore (s : State) : Bool :=
  let h := s.se.h.toNat
  let m := s.cfg.boundaries
  match s.se.phase with
  | .unsynced => false
  | .countingDown => decide (2 * (h / 2) + 2 < m)
  | .awaitingFinal => decide (h < s.se.ticksToFinal.toNat ∧ s.se.ticksToFinal.toNat < m)
  | .locked => decide (h < s.se.ticksToNextTx.toNat ∧ s.se.ticksToNextTx.toNat < m)

/-- What a successful steady send writes to `SE.flag` (R179): the percent is a meaningful opening. -/
def meaningfullyOpen (cfg : Config) (pct : Byte) : Bool := decide (cfg.minMeaningfulOpenPct.val ≤ pct.toNat)

/-! ### The aggregator's flag values -/

/-- A slot is occupied iff its id is not the empty one (R45). -/
def Slot.occupied (x : Slot) : Bool := x.id != emptyId

/-- A slot is live iff it is occupied and its `ticksUntilOff`, as a signed value, is not negative (R231). -/
def Slot.live (x : Slot) : Bool := x.occupied && decide (0 ≤ x.ticksUntilOff.toInt)

/-- `LiveCall(pct)` (R232). -/
def liveCall (ag : Aggregator) (pct : Byte) : Bool := decide (ag.minIndividual.toNat ≤ pct.toNat)

/-- `anyInd` of R228. -/
def anyIndividualOpen (ag : Aggregator) : Bool := ag.slots.any (fun x => x.live && liveCall ag x.percentOpen)

/-- The sum of `percentOpen` over the live slots, at unbounded width (R228). -/
def liveSum (slots : List Slot) : Nat := ((slots.filter Slot.live).map (fun x => x.percentOpen.toNat)).sum

/-- `cum` of R228: the sum, capped at `AG.minAggregate`. -/
def cumulativeOpen (ag : Aggregator) : Nat := min (liveSum ag.slots) ag.minAggregate.toNat

/-- `desired` of R228. -/
def desiredState (ag : Aggregator) : Bool :=
  anyIndividualOpen ag && decide (ag.minAggregate.toNat ≤ cumulativeOpen ag)

/-- `min(t + 1, 255)`: a tick counter that saturates (R233). -/
def saturatingTick (t : Byte) : Byte := BitVec.ofNat 8 (min (t.toNat + 1) 255)

end Sys2Proof.Machine
end

