-- ==== Sys2Proof/Machine/Ops.lean ====
section
/-!
DEFINITION. The named operations over the state that the meanings share: responding and faulting (R10, R116, R268), taking
a request from the port (R75), composing and transmitting a frame (R184), the SyncEngine's partial reset (R188), and the
two slot writes with the three searches of the slot table (R220 to R224).
-/
namespace Sys2Proof.Machine

/-! ### Responses and request faults -/

/-- `respond(...)` (R10, R116): the request's response goes out. -/
def respond (bytes : List Byte) (s : State) : State := { s with io.responses := s.io.responses ++ [bytes] }

/-- A normal response: status OK and the payload (R116). -/
def respondOk (payload : List Byte) (s : State) : State := respond (statusOk :: payload) s

/-- `raise Fault(kind)` (R10, R268): the block's only exception. The response is the single status byte; nothing is saved,
no mode changes and no register is written. There is no return from it: the next request is simply the next
(R269). -/
def raiseFault (f : RequestFault) (s : State) : State := respond [f.status] s

/-- The request at the head of the port is taken, and the others stay (R75). -/
def takeRequest (rest : List (List Byte)) (s : State) : State := { s with io.requests := rest }

/-! ### Composing and transmitting -/

/-- A frame written over the start of a buffer: the bytes above it keep their values (R42, R184). -/
def overlay (frame buffer : List Byte) : List Byte := frame ++ buffer.drop frame.length

/-- `Compose(op, ext)` (R184): the encoded buffer, its sentinel with it, goes into `SE.txBuffer`. -/
def compose (op ext : Byte) (s : State) : State :=
  { s with se.txBuffer := overlay (encodeFrame s.se.hc1 s.se.hc2 op ext) s.se.txBuffer }

/-- `SE.txLen` right after `Compose(op, ext)`: the number of meaningful bytes. A helper value, not state (R184). -/
def composedLength (op ext : Byte) (s : State) : Nat := (encodeFrame s.se.hc1 s.se.hc2 op ext).length - 1

/-- The number of `send` calls of an event (R53). -/
def Copies.count : Copies → Nat
  | .one => 1
  | .two => 2

/-- `draw sendOk_k : Bool` (R54): the environment's next `send` result; where it has supplied none, a free value. -/
def drawSendOk (s : State) : Bool × State :=
  match s.io.sendResults with
  | b :: rest => (b, { s with io.sendResults := rest, io.drawCount := s.io.drawCount + 1 })
  | [] => (Config.sendOk s.io.drawCount, { s with io.drawCount := s.io.drawCount + 1 })

/-- The draws of `n` copies, in order (R54). -/
def drawSends : Nat → State → List Bool × State
  | 0, s => ([], s)
  | n + 1, s =>
    let d := drawSendOk s
    let ds := drawSends n d.2
    (d.1 :: ds.1, ds.2)

/-- `Transmit(c)` of the `len` bytes at the start of `SE.txBuffer` (R184): the event goes out, each copy's result is drawn,
and the answer is whether any copy succeeded (R54). -/
def transmit (len : Nat) (copies : Copies) (s : State) : Bool × State :=
  let ds := drawSends copies.count s
  (ds.1.any id,
   { ds.2 with io.events := s.io.events ++ [{ frame := s.se.txBuffer.take len, copies := copies, sendOk := ds.1 }] })

/-- `Compose(op, ext)` and then `Transmit(c)`, as the three sending rules have it (R175, R177, R179). -/
def sendFrame (op ext : Byte) (copies : Copies) (s : State) : Bool × State :=
  transmit (composedLength op ext s) copies (compose op ext s)

/-- A VALVE_SET frame is composed and `SE.commandedPercent` becomes its percent (R40, R151, R177, R179). -/
def composeValveSet (pct : Byte) (s : State) : State :=
  { compose s.cfg.opcValveSet (scale pct) s with se.commandedPercent := pct }

/-! ### The SyncEngine's reset -/

/-- `SyncReset()` (R188): `SE.h`, `SE.hc1` and `SE.hc2` stay. -/
def syncReset (s : State) : State :=
  { s with
    se.phase := .unsynced
    se.countdown := 0
    se.ticksToFinal := 0
    se.ticksToNextTx := 0
    se.flag := false
    se.commandedPercent := 0
    se.txBuffer := List.replicate frameBufSize sentinel }

/-! ### The slot table -/

/-- `Occupy(i, id, pct)` (R220). -/
def occupy (i : Nat) (id : Half) (pct : Byte) (s : State) : State :=
  { s with ag.slots := s.ag.slots.set i { id := id, ticksUntilOff := liveTicks, percentOpen := pct } }

/-- `FindId(id)` (R222): the lowest index of a slot that holds the id, live or not. -/
def findId (slots : List Slot) (id : Half) : Option Nat := slots.findIdx? (fun x => x.id == id)

/-- `FindEmpty()` (R223): the lowest index of an empty slot. -/
def findEmpty (slots : List Slot) : Option Nat := slots.findIdx? (fun x => !x.occupied)

/-- The order of R224 without the index: `ticksUntilOff` as a signed value, then `percentOpen`. -/
def evictBefore (x y : Slot) : Bool :=
  decide (x.ticksUntilOff.toInt < y.ticksUntilOff.toInt)
    || (x.ticksUntilOff == y.ticksUntilOff && decide (x.percentOpen.toNat < y.percentOpen.toNat))

/-- The least slot of a list under the order of R224, with its index; a tie goes to the lowest index. -/
def leastSlot : List Slot → Option (Nat × Slot)
  | [] => none
  | x :: rest =>
    match leastSlot rest with
    | none => some (0, x)
    | some (j, y) => if evictBefore y x then some (j + 1, y) else some (0, x)

/-- `Victim()` (R224), for a table with no empty slot. -/
def victim (slots : List Slot) : Option Nat := (leastSlot slots).map Prod.fst

/-- The slot of a SUBMIT_REPORT: the id's own, else the first empty one, else the victim if the report is a live heat call;
none if it is rejected (R221). -/
def reportSlot (ag : Aggregator) (id : Half) (pct : Byte) : Option Nat :=
  match findId ag.slots id with
  | some i => some i
  | none =>
    match findEmpty ag.slots with
    | some i => some i
    | none => if liveCall ag pct then victim ag.slots else none

/-- One slot in an AGG_TICK (R227): an occupied slot at -128 is freed, any other occupied one counts down. -/
def tickSlot (x : Slot) : Slot :=
  if x.occupied then
    if x.ticksUntilOff.toInt = -128 then Slot.empty
    else { x with ticksUntilOff := x.ticksUntilOff - 1 }
  else x

/-- The call-for-heat level output (R237): `AG.callForHeat` at all times. -/
def callForHeatLevel (s : State) : Bool := s.ag.callForHeat

end Sys2Proof.Machine
end

