-- ==== Sys2Proof/Machine/Boiler.lean ====
section
/-!
DEFINITION. The BoilerAggregator (42_boileraggregator.md): its four requests.
-/
namespace Sys2Proof.Machine

/-- SUBMIT_REPORT (R221): a rejection is a normal response with result 0 and changes no register (R225). -/
def execSubmitReport (id : Half) (pct : Byte) (s : State) : Host.Outcome State Fault Refusal :=
  if id = emptyId ∨ 100 < pct.toNat then .next (respondOk [0] s)
  else
    match reportSlot s.ag id pct with
    | some i => .next (respondOk [1] (occupy i id pct s))
    | none => .next (respondOk [0] s)

/-- The slot updates of a tick, in every slot (R227). -/
def tickSlots (ag : Aggregator) : Aggregator := { ag with slots := ag.slots.map tickSlot }

/-- The hysteresis of a tick on the decision `desired` (R233): a value that differs from the current one is accepted once the
hold time is over; otherwise the counter goes on. -/
def applyHysteresis (cfg : Config) (desired : Bool) (ag : Aggregator) : Aggregator :=
  if desired ≠ ag.callForHeat ∧ cfg.minTicksInEitherState.toNat ≤ ag.ticksInCurrentState.toNat then
    { ag with callForHeat := desired, ticksInCurrentState := 0 }
  else { ag with ticksInCurrentState := saturatingTick ag.ticksInCurrentState }

/-- A tick of the aggregator (R230): the slots first, then the decision over the updated slots, then hysteresis. -/
def aggregatorTick (cfg : Config) (ag : Aggregator) : Aggregator :=
  let ag1 := tickSlots ag
  applyHysteresis cfg (desiredState ag1) ag1

/-- AGG_TICK (R230). -/
def execAggTick (s : State) : Host.Outcome State Fault Refusal :=
  .next (respondOk [] { s with ag := aggregatorTick s.cfg s.ag })

/-- SET_THRESHOLDS (R235): coerced, never rejected (R234). -/
def execSetThresholds (a b : Byte) (s : State) : Host.Outcome State Fault Refusal :=
  .next (respondOk [] { s with ag.minIndividual := coerceIndividual a, ag.minAggregate := coerceAggregate a b })

/-- IS_CALLING_FOR_HEAT (R236). -/
def execIsCallingForHeat (s : State) : Host.Outcome State Fault Refusal :=
  .next (respondOk [boolByte s.ag.callForHeat] s)

end Sys2Proof.Machine
end

