-- ==== Sys2Proof/Machine/CodecRequests.lean ====
section
/-!
DEFINITION. The two requests of the FrameCodec: ENCODE (R132) and DECODE (R147). They write no register.
-/
namespace Sys2Proof.Machine

/-- ENCODE (R132): `00 n F[0] .. F[n]`, with `n` the number of meaningful bytes. -/
def execEncode (hc1 hc2 opcode ext : Byte) (s : State) : Host.Outcome State Fault Refusal :=
  let buffer := encodeFrame hc1 hc2 opcode ext
  .next (respondOk (BitVec.ofNat 8 (buffer.length - 1) :: buffer) s)

/-- The response of DECODE to what `DecodeFrame` gives: the record, or the single error status (R147). -/
def decodeResponse : Except DecodeError Command → List Byte
  | .ok c => [statusOk, c.hc1, c.hc2, c.opcode, c.ext]
  | .error e => [e.status]

/-- DECODE (R147): a decode error is a response, not a fault. -/
def execDecode (bytes : List Byte) (s : State) : Host.Outcome State Fault Refusal :=
  .next (respond (decodeResponse (decodeFrame bytes)) s)

end Sys2Proof.Machine
end

