-- ==== Sys2Proof/Machine/Frames.lean ====
section
/-!
DEFINITION. The three frame kinds (R107, R151 to R153): each is composed into `SE.txBuffer` for the stored house-code pair. The
SyncEngine's rules compose them (R175, R177, R179) and decide whether they are sent; no request packet selects one
(R90), so none of them gives a response (log entry 4).
-/
namespace Sys2Proof.Machine

/-- VALVE_SET (R151): the frame `EncodeFrame(SE.hc1, SE.hc2, OPC_VALVE_SET, scale(pct))` is composed. -/
def execValveSet (pct : Byte) (s : State) : Host.Outcome State Fault Refusal :=
  .next (composeValveSet pct s)

/-- SYNC_COUNTDOWN (R152): the frame `EncodeFrame(SE.hc1, SE.hc2, OPC_SYNC_COUNTDOWN, c)` is composed. -/
def execSyncCountdown (c : Byte) (s : State) : Host.Outcome State Fault Refusal :=
  .next (compose s.cfg.opcSyncCountdown c s)

/-- SYNC_FINAL (R153): the frame `EncodeFrame(SE.hc1, SE.hc2, OPC_SYNC_FINAL, 0)` is composed. -/
def execSyncFinal (s : State) : Host.Outcome State Fault Refusal :=
  .next (compose s.cfg.opcSyncFinal 0 s)

end Sys2Proof.Machine
end

