-- ==== Sys2Proof/Machine/Sync.lean ====
section
/-!
DEFINITION. The SyncEngine (41_syncengine.md): its phase step and its seven requests. The queries write no register.
-/
namespace Sys2Proof.Machine

/-! ### The phase step -/

/-- `StartHandshake()` (R174): only a valid house-code pair starts one. -/
def startHandshake (s : State) : State :=
  if s.se.housePairValid then { s with se.phase := .countingDown, se.countdown := countdownStart } else s

/-- The delay of R181 on a base: `(SE.hc2 & 7) + base` half-seconds, from the boundary `SE.h` (R36, R37). -/
def dueIndex (base : Byte) (se : SyncEngine) : Byte := se.h + (se.hc2 &&& 7) + base

/-- The frame of a countdown step, if the countdown is odd (R175). -/
def countdownSend (s : State) : State :=
  if s.se.countdown.toNat % 2 = 1 then (sendFrame s.cfg.opcSyncCountdown s.se.countdown .two s).2 else s

/-- The decrement of a countdown step, and the transition to AwaitingFinal when it reaches 1 (R175). -/
def countdownAdvance (s : State) : State :=
  let c := s.se.countdown - 2
  if c = 1 then
    { s with se.countdown := c, se.phase := .awaitingFinal, se.ticksToFinal := dueIndex finalBase s.se }
  else { s with se.countdown := c }

/-- `CountdownStep()` (R175): only on calls with `SE.h` even. -/
def countdownStep (s : State) : State :=
  if s.se.h.toNat % 2 ≠ 0 then s else countdownAdvance (countdownSend s)

/-- `FinalStep(pct')` (R177): the sync-final is sent, `SE.flag` is cleared whether or not the send succeeded, and the first
valve-set is composed, not sent. -/
def finalStep (pct : Byte) (s : State) : State :=
  if s.se.ticksToFinal = s.se.h then
    let s1 := (sendFrame s.cfg.opcSyncFinal 0 .two s).2
    let s2 := composeValveSet pct { s1 with se.flag := false, se.phase := .locked }
    { s2 with se.ticksToNextTx := dueIndex gapBase s2.se }
  else s

/-- The number of copies of a steady send (R180). -/
def steadyCopies (dbl : Bool) : Copies := if dbl then .two else .one

/-- `SteadyStep(pct', dbl)` (R179): `SE.flag` is written only when a copy succeeded (R183). -/
def steadyStep (pct : Byte) (dbl : Bool) (s : State) : State :=
  if s.se.ticksToNextTx = s.se.h then
    let sent := transmit (composedLength s.cfg.opcValveSet (scale pct) s) (steadyCopies dbl) (composeValveSet pct s)
    let s1 := sent.2
    { s1 with
      se.flag := if sent.1 then meaningfullyOpen s.cfg pct else s1.se.flag
      se.ticksToNextTx := dueIndex gapBase s1.se }
  else s

/-- The first line of `Act` (R173): an Unsynced engine tries to start a handshake. -/
def actStart (s : State) : State :=
  match s.se.phase with
  | .unsynced => startHandshake s
  | .countingDown => s
  | .awaitingFinal => s
  | .locked => s

/-- `Act(pct', dbl)` (R173): a handshake that starts goes on, in the same call, to its countdown step. -/
def act (pct : Byte) (dbl : Bool) (s : State) : State :=
  let s1 := actStart s
  match s1.se.phase with
  | .unsynced => s1
  | .countingDown => countdownStep s1
  | .awaitingFinal => finalStep pct s1
  | .locked => steadyStep pct dbl s1

/-! ### The timing entry points -/

/-- A due index lowered by `M` at the start of a minor cycle; a late event becomes due at once (R171, R185). -/
def ageIndex (m : Nat) (t : Byte) : Byte := if m ≤ t.toNat then t - BitVec.ofNat 8 m else 0

/-- The start of a minor cycle (R171): `SE.h` is 0, and the due index of the phase is aged. -/
def beginCycle (s : State) : State :=
  let m := s.cfg.boundaries
  let s1 := { s with se.h := 0 }
  match s.se.phase with
  | .unsynced => s1
  | .countingDown => s1
  | .awaitingFinal => { s1 with se.ticksToFinal := ageIndex m s.se.ticksToFinal }
  | .locked => { s1 with se.ticksToNextTx := ageIndex m s.se.ticksToNextTx }

/-- The end that both timing entry points share: the phase step, and then the response `needMore` (R171, R172). -/
def actAndRespond (pct : Byte) (dbl : Bool) (s : State) : State :=
  let s1 := act (preparePct pct) dbl s
  respondOk [boolByte (needMore s1)] s1

/-- SYNC_FIRST (R171). -/
def execSyncFirst (pct : Byte) (dbl : Bool) (s : State) : Host.Outcome State Fault Refusal :=
  .next (actAndRespond pct dbl (beginCycle s))

/-- SYNC_NEXT (R172): past the last boundary of the minor cycle it faults (R264). -/
def execSyncNext (pct : Byte) (dbl : Bool) (s : State) : Host.Outcome State Fault Refusal :=
  if s.cfg.boundaries ≤ s.se.h.toNat + 1 then .next (raiseFault .halfSecondOverrun s)
  else .next (actAndRespond pct dbl { s with se.h := s.se.h + 1 })

/-! ### Reset and configuration -/

/-- SYNC_RESET (R189). -/
def execSyncReset (s : State) : Host.Outcome State Fault Refusal := .next (respondOk [] (syncReset s))

/-- SET_HOUSE_CODE (R190): only a changed pair is stored and resets. -/
def execSetHouseCode (hc1 hc2 : Byte) (s : State) : Host.Outcome State Fault Refusal :=
  if (hc1, hc2) ≠ (s.se.hc1, s.se.hc2) then
    .next (respondOk [] (syncReset { s with se.hc1 := hc1, se.hc2 := hc2 }))
  else .next (respondOk [] s)

/-! ### Queries -/

/-- IS_LOCKED (R192). -/
def execIsLocked (s : State) : Host.Outcome State Fault Refusal :=
  .next (respondOk [boolByte (decide (s.se.phase = .locked))] s)

/-- GET_COMMANDED_PCT (R193). -/
def execGetCommandedPct (s : State) : Host.Outcome State Fault Refusal :=
  .next (respondOk [s.se.commandedPercent] s)

/-- GET_OPEN_FLAG (R196). -/
def execGetOpenFlag (s : State) : Host.Outcome State Fault Refusal :=
  .next (respondOk [boolByte s.se.flag] s)

end Sys2Proof.Machine
end

