-- ==== Sys2Proof/Machine/Dispatch.lean ====
section
/-!
DEFINITION. One arm per instruction, each a direct call of its meaning.
-/
namespace Sys2Proof.Machine

def exec (i : Instr) (s : State) : Host.Outcome State Fault Refusal :=
  match i with
  -- the FrameCodec
  | .encode hc1 hc2 opcode ext => Sys2Proof.Machine.execEncode hc1 hc2 opcode ext s
  | .decode bytes => Sys2Proof.Machine.execDecode bytes s
  -- the SyncEngine
  | .syncFirst pct dbl => Sys2Proof.Machine.execSyncFirst pct dbl s
  | .syncNext pct dbl => Sys2Proof.Machine.execSyncNext pct dbl s
  | .syncReset => Sys2Proof.Machine.execSyncReset s
  | .setHouseCode hc1 hc2 => Sys2Proof.Machine.execSetHouseCode hc1 hc2 s
  | .isLocked => Sys2Proof.Machine.execIsLocked s
  | .getCommandedPct => Sys2Proof.Machine.execGetCommandedPct s
  | .getOpenFlag => Sys2Proof.Machine.execGetOpenFlag s
  -- the BoilerAggregator
  | .submitReport id pct => Sys2Proof.Machine.execSubmitReport id pct s
  | .aggTick => Sys2Proof.Machine.execAggTick s
  | .setThresholds a b => Sys2Proof.Machine.execSetThresholds a b s
  | .isCallingForHeat => Sys2Proof.Machine.execIsCallingForHeat s
  -- the frame kinds
  | .valveSet pct => Sys2Proof.Machine.execValveSet pct s
  | .syncCountdown c => Sys2Proof.Machine.execSyncCountdown c s
  | .syncFinal => Sys2Proof.Machine.execSyncFinal s

end Sys2Proof.Machine
end

