-- ==== Sys2Proof/Machine/Step.lean ====
section
/-!
DEFINITION. One step: the request at the head of the port is served (R73, R75). And `withFetchWord`, which puts a word of
the opcode table there.
-/
namespace Sys2Proof.Machine

/-- One step. A request packet is taken and decoded; a legal one is executed, an illegal one gets the response 0x80 and
changes nothing (R110, R263, R265). With no request at the port nothing changes (R31). -/
def step (s : State) : Host.Outcome State Fault Refusal :=
  match s.io.requests with
  | [] => .next s
  | p :: rest =>
    match decodePacket p with
    | .ok i => exec i (takeRequest rest s)
    | .error _ => .next (raiseFault .illegalRequest (takeRequest rest s))

/-- The state with the packet of a table word (`tablePacket`) at the head of the request port, where the next step takes its
request (log entry 5). -/
def State.withFetchWord (s : State) (nbits w : Nat) : State :=
  { s with io.requests := tablePacket nbits w :: s.io.requests }

end Sys2Proof.Machine
end

