-- ==== Sys2Proof/Safety.lean ====
section
/-!
DEFINITION. The terms that the statements use: the invariants of R43 and R49 (with what makes them inductive), the states a
run can reach (R307), sequences of requests, the calls of a caller that makes every half-second call (R298, R300), and the
changed symbol streams of R149.
-/
namespace Sys2Proof.Machine

/-! ### Invariants of the SyncEngine -/

/-- R43, each item but the first half of item 2 (which `SyncEngine.Inv` has for every call in the phase). -/
abbrev SyncEngine.SpecInv (se : SyncEngine) : Prop :=
  (se.phase = .countingDown → se.countdown.toNat % 2 = 1 ∧ 3 ≤ se.countdown.toNat ∧ se.countdown.toNat ≤ 241)
  ∧ (se.phase = .awaitingFinal → se.h.toNat ≤ se.ticksToFinal.toNat)
  ∧ (se.phase = .locked → se.h.toNat ≤ se.ticksToNextTx.toNat)
  ∧ (se.phase ≠ .unsynced → se.hc1.toNat ≤ 99 ∧ se.hc2.toNat ≤ 99)
  ∧ (se.phase ≠ .locked → se.flag = false)

/-- The form of the transmit buffer (R42): 46 bytes; all the sentinel in phase Unsynced; a frame's first byte at its
start once the countdown is over. -/
abbrev SyncEngine.BufferForm (se : SyncEngine) : Prop :=
  se.txBuffer.length = frameBufSize
  ∧ (se.phase = .unsynced → se.txBuffer = List.replicate frameBufSize sentinel)
  ∧ (se.phase = .awaitingFinal ∨ se.phase = .locked → se.txBuffer.head? = some 0xCC)

/-- What each phase says of the counters: R35 and R43 item 1; R43 items 2 and 3, strictly, with the largest values of
R36 and R37; R40's zero before the first sync-final. -/
abbrev SyncEngine.CounterForm (se : SyncEngine) : Prop :=
  (se.phase = .unsynced → se.countdown = 0 ∧ se.ticksToFinal = 0 ∧ se.ticksToNextTx = 0)
  ∧ (se.phase = .countingDown → se.countdown.toNat % 2 = 1 ∧ 3 ≤ se.countdown.toNat ∧ se.countdown.toNat ≤ 241)
  ∧ (se.phase = .awaitingFinal →
      se.countdown = 1 ∧ se.h.toNat < se.ticksToFinal.toNat ∧ se.ticksToFinal.toNat ≤ se.h.toNat + 15)
  ∧ (se.phase = .locked →
      se.countdown = 1 ∧ se.h.toNat < se.ticksToNextTx.toNat ∧ se.ticksToNextTx.toNat ≤ se.h.toNat + 237)
  ∧ (se.phase ≠ .locked → se.commandedPercent = 0)

/-- The SyncEngine's invariant: the ranges of R40 and R41, R43 items 4 and 5, the counters and the buffer. -/
abbrev SyncEngine.Inv (cfg : Config) (se : SyncEngine) : Prop :=
  se.h.toNat < cfg.boundaries
  ∧ se.commandedPercent.toNat ≤ 100
  ∧ (se.phase ≠ .unsynced → se.hc1.toNat ≤ 99 ∧ se.hc2.toNat ≤ 99)
  ∧ (se.phase ≠ .locked → se.flag = false)
  ∧ se.CounterForm
  ∧ se.BufferForm

/-! ### Invariants of the BoilerAggregator -/

/-- R49 item 1: no two occupied slots share an id. -/
abbrev UniqueIds (slots : List Slot) : Prop :=
  slots.Pairwise (fun x y => x.occupied = true → x.id ≠ y.id)

/-- One slot: R49 items 2 and 3 for an occupied one, R45 for an empty one. -/
abbrev Slot.Inv (x : Slot) : Prop :=
  (x.occupied = true → x.percentOpen.toNat ≤ 100 ∧ x.ticksUntilOff.toInt ≤ 60)
  ∧ (x.occupied = false → x = Slot.empty)

/-- The legal thresholds of R48. -/
abbrev Aggregator.ThresholdsLegal (ag : Aggregator) : Prop :=
  1 ≤ ag.minIndividual.toNat ∧ ag.minIndividual.toNat ≤ 100
  ∧ ag.minIndividual.toNat ≤ ag.minAggregate.toNat ∧ ag.minAggregate.toNat ≤ 100

/-- The aggregator's invariant (R44, R45, R48, R49). -/
abbrev Aggregator.Inv (ag : Aggregator) : Prop :=
  ag.slots.length = nSlots ∧ UniqueIds ag.slots ∧ (∀ x ∈ ag.slots, x.Inv) ∧ ag.ThresholdsLegal

/-- The invariant of the whole block. -/
abbrev State.Inv (s : State) : Prop := s.cfg.Legal ∧ s.se.Inv s.cfg ∧ s.ag.Inv

/-! ### Runs -/

/-- The states of the runs of R307: from the power-on reset of a legal configuration, by the environment putting any
packets at the port and any `send` results beside it (R306), and by steps. -/
inductive Reachable : State → Prop where
  | reset (cfg : Config) : cfg.Legal → Reachable (State.resetWith cfg)
  | arrive (s : State) (packets : List (List Byte)) (results : List Bool) :
      Reachable s → Reachable { s with io.requests := packets, io.sendResults := results }
  | step (s t : State) : Reachable s → Machine.step s = .next t → Reachable t

/-- Instructions executed one after the other (R75), stopping where one does not give a next state. -/
def execAll : List Instr → State → Host.Outcome State Fault Refusal
  | [], s => .next s
  | i :: rest, s =>
    match exec i s with
    | .next t => execAll rest t
    | .fault r => .fault r
    | .refused r => .refused r

/-- The call a caller makes at half-second boundary `b` (counted absolutely, cycle `c` starting at `c * m`): SYNC_FIRST at
the start of a minor cycle, SYNC_NEXT at every other boundary (R298, R300). -/
def boundaryCall (m b : Nat) (pct : Nat → Byte) (dbl : Nat → Bool) : Instr :=
  if b % m = 0 then .syncFirst (pct b) (dbl b) else .syncNext (pct b) (dbl b)

/-- The calls at `n` boundaries from boundary `b` on. -/
def boundaryCalls (m b n : Nat) (pct : Nat → Byte) (dbl : Nat → Bool) : List Instr :=
  (List.range n).map (fun k => boundaryCall m (b + k) pct dbl)

/-- The frame and the number of copies of an event: what R53 makes it of. -/
def TxEvent.sent (e : TxEvent) : List Byte × Copies := (e.frame, e.copies)

/-- `i` is a timing call that a state admits (R171, R172): SYNC_FIRST at any time, SYNC_NEXT short of the last boundary. It
is made at boundary `h`; a due index is first lowered by `lowered`; `passed` half-second boundaries have passed since the
call before it (R38: one up to a SYNC_NEXT, the rest of the minor cycle up to a SYNC_FIRST). -/
def TimingCall (s : State) (i : Instr) (pct : Byte) (dbl : Bool) (h lowered passed : Nat) : Prop :=
  (i = .syncFirst pct dbl ∧ h = 0 ∧ lowered = s.cfg.boundaries ∧ passed = s.cfg.boundaries - s.se.h.toNat)
  ∨ (i = .syncNext pct dbl ∧ h = s.se.h.toNat + 1 ∧ h < s.cfg.boundaries ∧ lowered = 0 ∧ passed = 1)

/-- A buffer with an encoded frame loaded: the frame's bytes, the sentinel at the index after them, and above it what the
buffer held (R42). -/
def loaded (frame buffer : List Byte) : List Byte := frame ++ [0xFF] ++ buffer.drop (frame.length + 1)

/-- What a timing call that sends nothing does at the interface: it responds `00 needMore` (R116). -/
def SendsNothing (s t : State) : Prop :=
  t.io = { s.io with responses := s.io.responses ++ [[0x00, boolByte (needMore t)]] }

/-- What a timing call that sends does at the interface: it emits one event of this frame and these copies, takes as many
`send` results as there are copies (those the environment supplied, in their order), and responds `00 needMore`. The send
succeeded iff one of the copies did (R53, R54, R306). The supply, the counter and the results noted in the event are the model's
(log entries 3 and 16). -/
def SendsOne (s t : State) (frame : List Byte) (copies : Copies) (succeeded : Bool) : Prop :=
  ∃ oks : List Bool,
    oks.length = copies.count
    ∧ (succeeded = true ↔ true ∈ oks)
    ∧ (copies.count ≤ s.io.sendResults.length → oks = s.io.sendResults.take copies.count)
    ∧ t.io = { s.io with
        sendResults := s.io.sendResults.drop copies.count
        drawCount := s.io.drawCount + copies.count
        responses := s.io.responses ++ [[0x00, boolByte (needMore t)]]
        events := s.io.events ++ [{ frame := frame, copies := copies, sendOk := oks }] }

/-- `(SE.hc2 & 7)` (R181), as a number. -/
def delayOf (se : SyncEngine) : Nat := se.hc2.toNat % 8

/-- The steady period `P` of R181, as a number of half-seconds. -/
def steadyPeriod (se : SyncEngine) : Nat := delayOf se + 230

/-! ### Callers that heed needMore, and the timeline of R186 -/

/-- The last response was `00 01`: the timing call before asked for the next half-second boundary (R116, R182). -/
def askedForMore (s : State) : Bool := s.io.responses.getLast? == some [0x00, 0x01]

/-- The calls of a caller that meets R298 and R300, at `n` boundaries from boundary `b` on: SYNC_FIRST at every cycle's start, the
SYNC_NEXT of a boundary whenever the call before asked for it, and otherwise too, unless it gives up there (`stops`). Having
given up it makes no call until the next cycle's start, since the k-th SYNC_NEXT belongs to boundary `k`. -/
def heedingCalls (pct : Nat → Byte) (dbl stops : Nat → Bool) (b : Nat) :
    Nat → Bool → State → Host.Outcome State Fault Refusal
  | 0, _, s => .next s
  | n + 1, gaveUp, s =>
    if b % s.cfg.boundaries ≠ 0 ∧ (gaveUp ∨ (askedForMore s = false ∧ stops b)) then
      heedingCalls pct dbl stops (b + 1) n true s
    else
      match exec (boundaryCall s.cfg.boundaries b pct dbl) s with
      | .next t => heedingCalls pct dbl stops (b + 1) n false t
      | .fault r => .fault r
      | .refused r => .refused r

/-- The phase after boundary `b` of a handshake whose first even boundary is `t1` (R186 items 2 and 3). -/
def timelinePhase (se : SyncEngine) (t1 b : Nat) : Phase :=
  if b < t1 + 238 then .countingDown
  else if b < t1 + 246 + delayOf se then .awaitingFinal
  else .locked

/-- What is sent at boundary `b` of a handshake whose first even boundary is `t1`: a countdown frame (R186 item 1), the sync-final
(item 3), a valve-set of the percent given there (item 4), or nothing. -/
def timelineFrames (s : State) (t1 : Nat) (pct : Nat → Byte) (dbl : Nat → Bool) (b : Nat) : List (List Byte × Copies) :=
  let final := t1 + 246 + delayOf s.se
  if t1 ≤ b ∧ b ≤ t1 + 238 ∧ (b - t1) % 2 = 0 then
    [(frameBytes s.se.hc1 s.se.hc2 s.cfg.opcSyncCountdown (BitVec.ofNat 8 (241 - (b - t1))), .two)]
  else if b = final then [(frameBytes s.se.hc1 s.se.hc2 s.cfg.opcSyncFinal 0, .two)]
  else if final < b ∧ (b - final) % steadyPeriod s.se = 0 then
    [(frameBytes s.se.hc1 s.se.hc2 s.cfg.opcValveSet (scale (BitVec.ofNat 8 (min (pct b).toNat 100))),
      if dbl b then .two else .one)]
  else []

/-- The sum of R228 written out: the `percentOpen` of every slot that is occupied and not expired. -/
def exactSum : List Slot → Nat
  | [] => 0
  | x :: rest =>
    (if x.id ≠ 0xFFFF ∧ 0 ≤ x.ticksUntilOff.toInt then x.percentOpen.toNat else 0) + exactSum rest

/-! ### Which registers an instruction may write (R50) -/

/-- SYNC_FIRST and SYNC_NEXT: the only writers of `SE.h`, and the only requests that transmit (R50). -/
def isTiming : Instr → Bool
  | .syncFirst _ _ | .syncNext _ _ => true
  | .encode _ _ _ _ | .decode _ | .syncReset | .setHouseCode _ _ | .isLocked | .getCommandedPct | .getOpenFlag
  | .submitReport _ _ | .aggTick | .setThresholds _ _ | .isCallingForHeat | .valveSet _ | .syncCountdown _
  | .syncFinal => false

/-- The requests of R50 that write the SyncEngine's phase, counters and flag. -/
def writesEngine : Instr → Bool
  | .syncFirst _ _ | .syncNext _ _ | .syncReset | .setHouseCode _ _ => true
  | .encode _ _ _ _ | .decode _ | .isLocked | .getCommandedPct | .getOpenFlag | .submitReport _ _ | .aggTick
  | .setThresholds _ _ | .isCallingForHeat | .valveSet _ | .syncCountdown _ | .syncFinal => false

/-- The requests of the BoilerAggregator (R90). -/
def isAggregatorRequest : Instr → Bool
  | .submitReport _ _ | .aggTick | .setThresholds _ _ | .isCallingForHeat => true
  | .encode _ _ _ _ | .decode _ | .syncFirst _ _ | .syncNext _ _ | .syncReset | .setHouseCode _ _ | .isLocked
  | .getCommandedPct | .getOpenFlag | .valveSet _ | .syncCountdown _ | .syncFinal => false

/-- The requests that change no state (R74). -/
def isReadOnly : Instr → Bool
  | .encode _ _ _ _ | .decode _ | .isLocked | .getCommandedPct | .getOpenFlag | .isCallingForHeat => true
  | .syncFirst _ _ | .syncNext _ _ | .syncReset | .setHouseCode _ _ | .submitReport _ _ | .aggTick
  | .setThresholds _ _ | .valveSet _ | .syncCountdown _ | .syncFinal => false

/-! ### Request packets -/

/-- A packet the request port accepts: op byte, length and reserved bits as R90, R91 and R110 have them. -/
def PacketLegal (p : List Byte) : Prop :=
  (p.head? = some 0x01 ∧ p.length = 5)
  ∨ (∃ (l : Byte) (bytes : List Byte), p = 0x02 :: l :: bytes ∧ p.length = 2 + l.toNat)
  ∨ (∃ (op pct flags : Byte), p = [op, pct, flags] ∧ (op = 0x10 ∨ op = 0x11) ∧ flags.toNat / 2 = 0)
  ∨ ((p.head? = some 0x13 ∨ p.head? = some 0x22) ∧ p.length = 3)
  ∨ (p.head? = some 0x20 ∧ p.length = 4)
  ∨ (∃ op : Byte, p = [op] ∧ op ∈ [0x12, 0x14, 0x15, 0x16, 0x21, 0x23])

/-! ### Changed symbol streams -/

/-- A frame's symbol stream (R99) made of these logical bits for its six protected bytes. -/
def streamOfBits (nineBits : List (List Bool)) : List Bool :=
  symbolsOf (List.replicate preambleZeroBits false) ++ bitSymbols true ++ nineBits.flatMap symbolsOf
    ++ bitSymbols false ++ bitSymbols false

/-- The logical bits of a record's protected bytes with bit `t` of byte `j` inverted (R149 item 2). -/
def invertedBits (hc1 hc2 opcode ext : Byte) (j t : Nat) : List (List Bool) :=
  ((protectedBytes hc1 hc2 opcode ext).map protectedBits).modify j (fun bits => bits.modify t not)

/-- A buffer with the bit of symbol `k` inverted (R92, R149 item 3). -/
def invertSymbol (k : Nat) (bytes : List Byte) : List Byte :=
  bytes.modify (k / 8) (fun b => b ^^^ BitVec.ofNat 8 (2 ^ (7 - k % 8)))

end Sys2Proof.Machine
end

