-- ==== Sys2Proof/Certificates/Slice0/Obligations.lean ====
section
/-!
DEFINITION. The statements for the provers. Each docstring says which rule it formalises.
-/
open Sys2Proof Sys2Proof.Machine

/-! ### Reset and the machine's invariant -/

/-- R55: power-on reset puts every register at the value of its table, whatever the configuration. -/
def Obligations.ResetPutsEveryRegisterAtItsValue : Prop :=
  ∀ cfg : Config,
    (State.resetWith cfg).cfg = cfg
    ∧ (State.resetWith cfg).se =
        { hc1 := 0xFF, hc2 := 0xFF, phase := .unsynced, countdown := 0, ticksToFinal := 0, ticksToNextTx := 0,
          flag := false, commandedPercent := 0, h := 0, txBuffer := List.replicate 46 0xFF }
    ∧ (State.resetWith cfg).ag.slots = List.replicate 8 { id := 0xFFFF, ticksUntilOff := 0, percentOpen := 0 }
    ∧ (State.resetWith cfg).ag.callForHeat = false
    ∧ (State.resetWith cfg).ag.ticksInCurrentState = 0
    ∧ (State.resetWith cfg).ag.minIndividual.toNat = min (max cfg.resetMinIndividual.toNat 1) 100
    ∧ (State.resetWith cfg).ag.minAggregate.toNat =
        min (max cfg.resetMinAggregate.toNat (State.resetWith cfg).ag.minIndividual.toNat) 100
    ∧ (State.resetWith cfg).io.events = []

/-- The model's choice of log entry 1: `State.reset` is the reset of a machine whose decided parameters are at the defaults of
R7; that configuration is legal. Nothing is said of the OPEN parameters. -/
def Obligations.ResetMachineHasTheDefaultParameters : Prop :=
  ∃ cfg : Config,
    State.reset = State.resetWith cfg ∧ cfg.Legal ∧ cfg.boundaries = 4
    ∧ cfg.opcValveSet = 0x26 ∧ cfg.opcSyncCountdown = 0x2C ∧ cfg.opcSyncFinal = 0x20

/-- The invariant holds after power-on reset, for every legal configuration. -/
def Obligations.ResetSatisfiesTheInvariant : Prop :=
  (∀ cfg : Config, cfg.Legal → (State.resetWith cfg).Inv) ∧ State.reset.Inv

/-- The invariant (R43 strengthened, R45, R48, R49, the ranges of R40 and R41, the buffer form of R42) is kept by every step
from every state that has it, whatever packet is at the port. -/
def Obligations.EveryStepKeepsTheInvariant : Prop :=
  ∀ s t : State, s.Inv → step s = .next t → t.Inv

/-- R43 and R49, as they stand, hold in every state a run can reach. Item 2 of R43 is stated for every call in the phase. -/
def Obligations.ReachableStatesSatisfyTheSpecInvariants : Prop :=
  ∀ s : State, Reachable s →
    (s.se.phase = .countingDown → s.se.countdown.toNat % 2 = 1 ∧ 3 ≤ s.se.countdown.toNat ∧ s.se.countdown.toNat ≤ 241)
    ∧ (s.se.phase = .awaitingFinal →
        s.se.h.toNat < s.se.ticksToFinal.toNat ∧ s.se.ticksToFinal.toNat ≤ s.se.h.toNat + 15)
    ∧ (s.se.phase = .locked → s.se.h.toNat ≤ s.se.ticksToNextTx.toNat)
    ∧ (s.se.phase ≠ .unsynced → s.se.hc1.toNat ≤ 99 ∧ s.se.hc2.toNat ≤ 99)
    ∧ (s.se.phase ≠ .locked → s.se.flag = false)
    ∧ (∀ (i j : Nat) (x y : Slot), s.ag.slots[i]? = some x → s.ag.slots[j]? = some y → i < j →
        x.id ≠ 0xFFFF → y.id ≠ 0xFFFF → x.id ≠ y.id)
    ∧ (∀ x ∈ s.ag.slots, x.id ≠ 0xFFFF → x.percentOpen.toNat ≤ 100 ∧ x.ticksUntilOff.toInt ≤ 60)
    ∧ 1 ≤ s.ag.minIndividual.toNat ∧ s.ag.minIndividual.toNat ≤ 100
    ∧ s.ag.minIndividual.toNat ≤ s.ag.minAggregate.toNat ∧ s.ag.minAggregate.toNat ≤ 100

/-! ### The two encodings -/

/-- Decoding what the encoder writes for a well-formed instruction gives that instruction, with every operand at every value:
the 13 request packets (R91) and the three kinds of frame, for every legal configuration and every house-code pair. The encoder's
frames are R97, R98 and R107; reading a frame's protected bytes back into VALVE_SET, SYNC_COUNTDOWN or SYNC_FINAL is the model's own
reading, used by no step (log entry 8). -/
def Obligations.DecodingAnEncodedInstructionGivesItBack : Prop :=
  ∀ (cfg : Config) (hc1 hc2 : Byte) (i : Instr),
    cfg.Legal → i.wellFormed = true → decode cfg (encode cfg hc1 hc2 i) = .ok i

/-- A packet decodes to an instruction exactly when it is that instruction's packet, and the instruction is then a
well-formed request: no two packets mean the same, and none means a frame kind. -/
def Obligations.APacketDecodesExactlyToTheRequestItEncodes : Prop :=
  ∀ (cfg : Config) (hc1 hc2 : Byte) (p : List Byte) (i : Instr),
    decodePacket p = .ok i ↔
      (i.isRequest = true ∧ i.wellFormed = true ∧ encode cfg hc1 hc2 i = .packet p)

/-- R110 and R263: a packet with an op byte outside R90, a length other than R91's or a reserved flags bit set is taken from
the port and gets the response 0x80, and nothing else changes; every other packet is some instruction's. -/
def Obligations.IllegalPacketsAreRefusedWithoutAChange : Prop :=
  (∀ (s : State) (p : List Byte) (rest : List (List Byte)),
    s.io.requests = p :: rest → ¬ PacketLegal p →
      step s = .next { s with io.requests := rest, io.responses := s.io.responses ++ [[0x80]] })
  ∧ (∀ p : List Byte, PacketLegal p → ∃ i : Instr, decodePacket p = .ok i)

/-- Words written out from R91 and R110 decode to what they stand for: packets of each component, and one that is refused. The last
clause, a frame written out from R97 with the checksum of R98 and the default opcode of R107, is the model's choice: the default
opcode and the configuration that holds it (log entries 1 and 10) and the reading of frames (log entry 8). -/
def Obligations.WrittenOutWordsDecode : Prop :=
  decodePacket [0x01, 0x0D, 0x49, 0x26, 0x80] = .ok (.encode 13 73 0x26 128)
  ∧ decodePacket [0x02, 0x01, 0xCC] = .ok (.decode [0xCC])
  ∧ decodePacket [0x11, 0x28, 0x01] = .ok (.syncNext 40 true)
  ∧ decodePacket [0x20, 0x01, 0x2C, 0x46] = .ok (.submitReport 300 70)
  ∧ decodePacket [0x10, 0x32, 0x02] = .error .reservedFlags
  ∧ decode Config.delivered (.frame [0x0D, 0x49, 0x00, 0x2C, 0xF1, 0x7F]) = .ok (.syncCountdown 241)

/-! ### The FrameCodec -/

/-- R149 item 1 with R146: every record's frame decodes to the record, whatever bytes follow it (its sentinel, for one). -/
def Obligations.EveryFrameDecodesToItsRecord : Prop :=
  ∀ (hc1 hc2 opcode ext : Byte) (following : List Byte),
    decodeFrame (frameBytes hc1 hc2 opcode ext ++ following) = .ok { hc1, hc2, opcode, ext }

/-- R105: the length of the symbol stream, and the number of meaningful bytes. -/
def Obligations.FrameLengthCountsItsOnes : Prop :=
  ∀ hc1 hc2 opcode ext : Byte,
    (frameSymbols hc1 hc2 opcode ext).length =
      278 + 2 * ((protectedBytes hc1 hc2 opcode ext).map (fun v => popcount v + popcount v % 2)).sum
    ∧ (frameBytes hc1 hc2 opcode ext).length = ((frameSymbols hc1 hc2 opcode ext).length + 7) / 8

/-- R106: the length bounds over all records, the shortest frame, a longest frame, and the all-0xFF record. -/
def Obligations.FrameLengthsLieBetween36And45 : Prop :=
  (∀ hc1 hc2 opcode ext : Byte,
    282 ≤ (frameSymbols hc1 hc2 opcode ext).length ∧ (frameSymbols hc1 hc2 opcode ext).length ≤ 358
    ∧ 36 ≤ (frameBytes hc1 hc2 opcode ext).length ∧ (frameBytes hc1 hc2 opcode ext).length ≤ 45)
  ∧ (checksum 0 0 0 0 0 = 0x0C ∧ (frameSymbols 0 0 0 0).length = 282 ∧ (frameBytes 0 0 0 0).length = 36)
  ∧ (checksum 0x7F 0x7F 0 0xEF 0xFE = 0xF7 ∧ (frameSymbols 0x7F 0x7F 0xEF 0xFE).length = 358
      ∧ (frameBytes 0x7F 0x7F 0xEF 0xFE).length = 45)
  ∧ ((frameSymbols 0xFF 0xFF 0xFF 0xFF).length = 346 ∧ (frameBytes 0xFF 0xFF 0xFF 0xFF).length = 44)

/-- R103 and R104: the sentinel stands after the meaningful bytes and is none of them; the longest run of 1 symbols is 3; the
first byte is 0xCC. -/
def Obligations.NoMeaningfulByteIsTheSentinel : Prop :=
  ∀ hc1 hc2 opcode ext : Byte,
    encodeFrame hc1 hc2 opcode ext = frameBytes hc1 hc2 opcode ext ++ [0xFF]
    ∧ 0xFF ∉ frameBytes hc1 hc2 opcode ext
    ∧ [true, true, true] <:+: frameSymbols hc1 hc2 opcode ext
    ∧ ¬ [true, true, true, true] <:+: frameSymbols hc1 hc2 opcode ext
    ∧ (frameBytes hc1 hc2 opcode ext).head? = some 0xCC

/-- R149 item 2: a frame re-encoded with any one data or parity bit of a protected byte inverted gives ParityMismatch. -/
def Obligations.AnInvertedLogicalBitGivesParityMismatch : Prop :=
  ∀ (hc1 hc2 opcode ext : Byte) (j t : Nat), j < 6 → t < 9 →
    decodeFrame (packSymbols (streamOfBits (invertedBits hc1 hc2 opcode ext j t))) = .error .parityMismatch

/-- R149 item 3: inverting one buffer bit from the preamble through the trailer gives an error of the three kinds; inverting a
symbol of the flush bit or of the padding leaves the record. -/
def Obligations.AnInvertedSymbolNeverGivesAWrongRecord : Prop :=
  ∀ (hc1 hc2 opcode ext : Byte) (k : Nat),
    (k < (frameSymbols hc1 hc2 opcode ext).length - 4 →
      ∃ e : DecodeError,
        decodeFrame (invertSymbol k (frameBytes hc1 hc2 opcode ext)) = .error e
        ∧ (e = .badLeadingEdge ∨ e = .badSymbolPair ∨ e = .parityMismatch))
    ∧ ((frameSymbols hc1 hc2 opcode ext).length - 4 ≤ k → k < 8 * (frameBytes hc1 hc2 opcode ext).length →
      decodeFrame (invertSymbol k (frameBytes hc1 hc2 opcode ext)) = .ok { hc1, hc2, opcode, ext })

/-- R146 and R148: a decode that ends, with a record or with an error other than TruncatedStream, ends the same whatever bytes
follow its input; so the first failing step in stream order decides. -/
def Obligations.DecodingReadsNothingAfterItsEnd : Prop :=
  ∀ bytes following : List Byte,
    (∀ c : Command, decodeFrame bytes = .ok c → decodeFrame (bytes ++ following) = .ok c)
    ∧ (∀ e : DecodeError, e ≠ .truncatedStream → decodeFrame bytes = .error e →
        decodeFrame (bytes ++ following) = .error e)

/-- R132: ENCODE completes in every state with `00 n F[0] .. F[n]`, and changes nothing but the responses. -/
def Obligations.EncodeAnswersTheEncodedBuffer : Prop :=
  ∀ (s : State) (hc1 hc2 opcode ext : Byte),
    ∃ n : Byte,
      n.toNat = (frameBytes hc1 hc2 opcode ext).length
      ∧ exec (.encode hc1 hc2 opcode ext) s = .next { s with
          io.responses := s.io.responses ++ [0x00 :: n :: (frameBytes hc1 hc2 opcode ext ++ [0xFF])] }

/-- R147: DECODE completes in every state with the record or the error's code, and changes nothing but the responses; its
corner cases. -/
def Obligations.DecodeAnswersTheRecordOrTheErrorCode : Prop :=
  (∀ (s : State) (bytes : List Byte),
    exec (.decode bytes) s = .next { s with
      io.responses := s.io.responses ++
        [match decodeFrame bytes with
          | .ok c => [0x00, c.hc1, c.hc2, c.opcode, c.ext]
          | .error .truncatedStream => [0x01]
          | .error .badLeadingEdge => [0x02]
          | .error .badSymbolPair => [0x03]
          | .error .parityMismatch => [0x04]
          | .error .checksumMismatch => [0x05]
          | .error .missingTrailer => [0x06]] })
  ∧ (∀ n : Nat, decodeFrame (List.replicate n 0xCC) = .error .truncatedStream)
  ∧ (∀ (b : Byte) (rest : List Byte), b.toNat < 0xC0 → decodeFrame (b :: rest) = .error .badLeadingEdge)

/-! ### The frame kinds -/

/-- R151 to R153 with R42: VALVE_SET, SYNC_COUNTDOWN and SYNC_FINAL complete in every state; each loads its frame for the stored
house-code pair into the transmit buffer, where it decodes to its record, and changes nothing else (VALVE_SET also sets
the commanded percent, R40).
That a frame kind executed by itself composes, and does no more, is the model's choice of log entry 4. -/
def Obligations.FrameKindsLoadTheirFrame : Prop :=
  ∀ s : State,
    (∀ pct : Byte, pct.toNat ≤ 100 → ∃ ext : Byte,
      ext.toNat = (pct.toNat * 255 + 50) / 100
      ∧ exec (.valveSet pct) s = .next { s with
          se.txBuffer := loaded (frameBytes s.se.hc1 s.se.hc2 s.cfg.opcValveSet ext) s.se.txBuffer
          se.commandedPercent := pct }
      ∧ decodeFrame (loaded (frameBytes s.se.hc1 s.se.hc2 s.cfg.opcValveSet ext) s.se.txBuffer) =
          .ok { hc1 := s.se.hc1, hc2 := s.se.hc2, opcode := s.cfg.opcValveSet, ext := ext })
    ∧ (∀ c : Byte,
      exec (.syncCountdown c) s = .next { s with
          se.txBuffer := loaded (frameBytes s.se.hc1 s.se.hc2 s.cfg.opcSyncCountdown c) s.se.txBuffer }
      ∧ decodeFrame (loaded (frameBytes s.se.hc1 s.se.hc2 s.cfg.opcSyncCountdown c) s.se.txBuffer) =
          .ok { hc1 := s.se.hc1, hc2 := s.se.hc2, opcode := s.cfg.opcSyncCountdown, ext := c })
    ∧ exec .syncFinal s = .next { s with
          se.txBuffer := loaded (frameBytes s.se.hc1 s.se.hc2 s.cfg.opcSyncFinal 0) s.se.txBuffer }
    ∧ decodeFrame (loaded (frameBytes s.se.hc1 s.se.hc2 s.cfg.opcSyncFinal 0) s.se.txBuffer) =
          .ok { hc1 := s.se.hc1, hc2 := s.se.hc2, opcode := s.cfg.opcSyncFinal, ext := 0 }

/-- R151 with R150: `scale` keeps distinct percents of 0..100 distinct, and 0, 50 and 100 are sent as 0, 128 and 255. -/
def Obligations.DistinctPercentsAreSentAsDistinctExtensions : Prop :=
  (∀ p q : Byte, p.toNat ≤ 100 → q.toNat ≤ 100 → scale p = scale q → p = q)
  ∧ (∀ p : Byte, p.toNat ≤ 100 → (scale p).toNat = (p.toNat * 255 + 50) / 100)
  ∧ scale 0 = 0 ∧ scale 50 = 128 ∧ scale 100 = 255

/-! ### The SyncEngine's timing calls -/

/-- R191 (from R174 and R182): with an invalid pair stored, an Unsynced engine stays Unsynced at every SYNC_FIRST and at every
SYNC_NEXT short of the last boundary: only `SE.h` moves, nothing is sent, and the response is needMore 0. -/
def Obligations.AnInvalidPairKeepsTheEngineUnsynced : Prop :=
  ∀ (s : State) (i : Instr) (pct : Byte) (dbl : Bool) (h lowered passed : Nat),
    TimingCall s i pct dbl h lowered passed → s.se.phase = .unsynced →
    ¬ (s.se.hc1.toNat ≤ 99 ∧ s.se.hc2.toNat ≤ 99) →
      exec i s = .next { s with
        se.h := BitVec.ofNat 8 h, io.responses := s.io.responses ++ [[0x00, 0x00]] }

/-- R173 and R174: with a valid pair, SYNC_FIRST or SYNC_NEXT on an Unsynced engine starts the handshake at 241, and at an even
boundary the same call sends the first countdown frame, two copies, and counts down to 239. How the
draws are counted and noted (`SendsOne`) is the model's choice of log entries 3 and 16. -/
def Obligations.ATimingCallStartsTheHandshake : Prop :=
  ∀ (s : State) (i : Instr) (pct : Byte) (dbl : Bool) (h lowered passed : Nat),
    TimingCall s i pct dbl h lowered passed → s.se.phase = .unsynced →
    s.se.hc1.toNat ≤ 99 → s.se.hc2.toNat ≤ 99 →
      ∃ t : State, exec i s = .next t ∧ t.cfg = s.cfg ∧ t.ag = s.ag
        ∧ (h % 2 = 1 →
            t.se = { s.se with h := BitVec.ofNat 8 h, phase := .countingDown, countdown := 241 } ∧ SendsNothing s t)
        ∧ (h % 2 = 0 → ∃ ok : Bool,
            t.se = { s.se with
              h := BitVec.ofNat 8 h, phase := .countingDown, countdown := 239
              txBuffer := loaded (frameBytes s.se.hc1 s.se.hc2 s.cfg.opcSyncCountdown 241) s.se.txBuffer }
            ∧ SendsOne s t (frameBytes s.se.hc1 s.se.hc2 s.cfg.opcSyncCountdown 241) .two ok)

/-- R175: the countdown step, at any value of the countdown. On an odd boundary nothing is sent. On an even one an odd countdown is
sent, two copies; the countdown falls by 2 modulo 256; at 1 the engine awaits the final, due `(hc2 & 7) + 8` boundaries on. How the
draws are counted and noted (`SendsOne`) is the model's choice of log entries 3 and 16. -/
def Obligations.TheCountdownStepSendsAndCountsDown : Prop :=
  ∀ (s : State) (i : Instr) (pct : Byte) (dbl : Bool) (h lowered passed : Nat),
    TimingCall s i pct dbl h lowered passed → s.se.phase = .countingDown →
      ∃ t : State, exec i s = .next t ∧ t.cfg = s.cfg ∧ t.ag = s.ag
        ∧ (h % 2 = 1 → t.se = { s.se with h := BitVec.ofNat 8 h } ∧ SendsNothing s t)
        ∧ (h % 2 = 0 →
            (s.se.countdown.toNat % 2 = 1 → ∃ ok : Bool,
              SendsOne s t (frameBytes s.se.hc1 s.se.hc2 s.cfg.opcSyncCountdown s.se.countdown) .two ok
              ∧ t.se.txBuffer =
                  loaded (frameBytes s.se.hc1 s.se.hc2 s.cfg.opcSyncCountdown s.se.countdown) s.se.txBuffer)
            ∧ (s.se.countdown.toNat % 2 = 0 → SendsNothing s t ∧ t.se.txBuffer = s.se.txBuffer)
            ∧ t.se.countdown.toNat = (s.se.countdown.toNat + 254) % 256
            ∧ (s.se.countdown = 3 →
                t.se.phase = .awaitingFinal ∧ t.se.ticksToFinal.toNat = h + delayOf s.se + 8)
            ∧ (s.se.countdown ≠ 3 → t.se.phase = .countingDown ∧ t.se.ticksToFinal = s.se.ticksToFinal)
            ∧ t.se = { s.se with
                h := BitVec.ofNat 8 h, countdown := t.se.countdown, phase := t.se.phase
                ticksToFinal := t.se.ticksToFinal, txBuffer := t.se.txBuffer })

/-- R177 and R178: in the call whose boundary the due index names, the sync-final is sent, two copies; the flag is cleared whatever
the send results; the engine is Locked, the first valve-set is composed and not sent, and its send is due `P` on. How the
draws are counted and noted (`SendsOne`) is the model's choice of log entries 3 and 16. -/
def Obligations.TheSyncFinalLocksTheEngine : Prop :=
  ∀ (s : State) (i : Instr) (pct : Byte) (dbl : Bool) (h lowered passed : Nat),
    TimingCall s i pct dbl h lowered passed → s.se.phase = .awaitingFinal →
    s.se.ticksToFinal.toNat - lowered = h →
      ∃ (t : State) (ok : Bool) (percent : Byte), exec i s = .next t ∧ t.cfg = s.cfg ∧ t.ag = s.ag
        ∧ percent.toNat = min pct.toNat 100
        ∧ SendsOne s t (frameBytes s.se.hc1 s.se.hc2 s.cfg.opcSyncFinal 0) .two ok
        ∧ t.se = { s.se with
            h := BitVec.ofNat 8 h, phase := .locked, flag := false, commandedPercent := percent
            ticksToFinal := BitVec.ofNat 8 h
            ticksToNextTx := BitVec.ofNat 8 (h + steadyPeriod s.se)
            txBuffer := loaded (frameBytes s.se.hc1 s.se.hc2 s.cfg.opcValveSet (scale percent))
              (loaded (frameBytes s.se.hc1 s.se.hc2 s.cfg.opcSyncFinal 0) s.se.txBuffer) }

/-- R179, R180 and R183: in the call whose boundary the due index names, a Locked engine sends the valve-set frame of this call's
percent, two copies iff `allowDoubleTX`; the flag becomes `percent >= MIN_MEANINGFUL_OPEN_PCT` if a copy succeeded and else
keeps its value; the next send is due `P` on. How the
draws are counted and noted (`SendsOne`) is the model's choice of log entries 3 and 16. -/
def Obligations.TheSteadySendCarriesTheCallsPercent : Prop :=
  ∀ (s : State) (i : Instr) (pct : Byte) (dbl : Bool) (h lowered passed : Nat),
    TimingCall s i pct dbl h lowered passed → s.se.phase = .locked →
    s.se.ticksToNextTx.toNat - lowered = h →
      ∃ (t : State) (ok : Bool) (percent : Byte), exec i s = .next t ∧ t.cfg = s.cfg ∧ t.ag = s.ag
        ∧ percent.toNat = min pct.toNat 100
        ∧ SendsOne s t (frameBytes s.se.hc1 s.se.hc2 s.cfg.opcValveSet (scale percent))
            (if dbl then .two else .one) ok
        ∧ (ok = true → (t.se.flag = true ↔ s.cfg.minMeaningfulOpenPct.val ≤ percent.toNat))
        ∧ (ok = false → t.se.flag = s.se.flag)
        ∧ t.se = { s.se with
            h := BitVec.ofNat 8 h, flag := t.se.flag, commandedPercent := percent
            ticksToNextTx := BitVec.ofNat 8 (h + steadyPeriod s.se)
            txBuffer := loaded (frameBytes s.se.hc1 s.se.hc2 s.cfg.opcValveSet (scale percent)) s.se.txBuffer }

/-- R171, R172, R36 and R37: a call before the due boundary sends nothing; it sets `SE.h`, and a SYNC_FIRST lowers the due index of
the phase by `M`. -/
def Obligations.ACallBeforeTheDueBoundarySendsNothing : Prop :=
  ∀ (s : State) (i : Instr) (pct : Byte) (dbl : Bool) (h lowered passed : Nat),
    TimingCall s i pct dbl h lowered passed →
      (s.se.phase = .awaitingFinal → s.se.ticksToFinal.toNat - lowered ≠ h →
        ∃ t : State, exec i s = .next t ∧ t.cfg = s.cfg ∧ t.ag = s.ag ∧ SendsNothing s t
          ∧ t.se = { s.se with
              h := BitVec.ofNat 8 h, ticksToFinal := BitVec.ofNat 8 (s.se.ticksToFinal.toNat - lowered) })
      ∧ (s.se.phase = .locked → s.se.ticksToNextTx.toNat - lowered ≠ h →
        ∃ t : State, exec i s = .next t ∧ t.cfg = s.cfg ∧ t.ag = s.ag ∧ SendsNothing s t
          ∧ t.se = { s.se with
              h := BitVec.ofNat 8 h, ticksToNextTx := BitVec.ofNat 8 (s.se.ticksToNextTx.toNat - lowered) })

/-- R38 with R185: from a state with the SyncEngine's invariant, the half-seconds until the event fall by exactly the half-second
boundaries that pass up to the call, delivered or skipped, and the event fires in the first call at or after its boundary. -/
def Obligations.HalfSecondsUntilTheEventFallWithTime : Prop :=
  ∀ (s : State) (i : Instr) (pct : Byte) (dbl : Bool) (h lowered passed : Nat),
    TimingCall s i pct dbl h lowered passed → s.se.Inv s.cfg →
      (s.se.phase = .awaitingFinal →
        ∃ t : State, exec i s = .next t
          ∧ (passed < s.se.ticksToFinal.toNat - s.se.h.toNat →
              t.se.phase = .awaitingFinal ∧ t.io.events = s.io.events
              ∧ t.se.ticksToFinal.toNat - t.se.h.toNat = s.se.ticksToFinal.toNat - s.se.h.toNat - passed)
          ∧ (s.se.ticksToFinal.toNat - s.se.h.toNat ≤ passed →
              t.se.phase = .locked ∧ t.io.events.length = s.io.events.length + 1))
      ∧ (s.se.phase = .locked →
        ∃ t : State, exec i s = .next t ∧ t.se.phase = .locked
          ∧ (passed < s.se.ticksToNextTx.toNat - s.se.h.toNat →
              t.io.events = s.io.events
              ∧ t.se.ticksToNextTx.toNat - t.se.h.toNat = s.se.ticksToNextTx.toNat - s.se.h.toNat - passed)
          ∧ (s.se.ticksToNextTx.toNat - s.se.h.toNat ≤ passed →
              t.io.events.length = s.io.events.length + 1
              ∧ t.se.ticksToNextTx.toNat - t.se.h.toNat = steadyPeriod s.se))

/-- R182: the needMore that a timing call answers is 1 iff some later boundary of the same minor cycle is one at which a SYNC_NEXT
acts (it sends) when only SYNC_NEXT calls come in between, whatever their percents and flags. -/
def Obligations.NeedMoreSaysThatALaterBoundaryActs : Prop :=
  ∀ (s t : State) (i : Instr) (pct : Byte) (dbl : Bool) (h lowered passed : Nat) (pct' : Byte) (dbl' : Bool),
    TimingCall s i pct dbl h lowered passed → s.se.Inv s.cfg → exec i s = .next t →
      ∃ more : Byte, t.io.responses = s.io.responses ++ [[0x00, more]]
        ∧ (more = 0 ∨ more = 1)
        ∧ (more = 1 ↔
            ∃ (k : Nat) (u v : State), h + k + 1 < s.cfg.boundaries
              ∧ execAll (List.replicate k (.syncNext pct' dbl')) t = .next u
              ∧ exec (.syncNext pct' dbl') u = .next v
              ∧ v.io.events.length = u.io.events.length + 1)

/-- R264: a SYNC_NEXT past the last boundary of the minor cycle answers 0x81 and changes nothing else. -/
def Obligations.ASyncNextPastTheCycleIsRefusedWithoutAChange : Prop :=
  ∀ (s : State) (pct : Byte) (dbl : Bool), s.cfg.boundaries ≤ s.se.h.toNat + 1 →
    exec (.syncNext pct dbl) s = .next { s with io.responses := s.io.responses ++ [[0x81]] }

/-- R186 items 1 to 3, for a first call at a minor cycle's start and a caller that makes every call: whatever the percents and
flags, the handshake sends the 120 countdown frames 241, 239, .. 3 at boundaries 0, 2, .. 238 and the sync-final at boundary
`246 + (hc2 & 7)`, each two copies. The engine is CountingDown from boundary 0, AwaitingFinal from boundary 238 and Locked from
boundary `246 + (hc2 & 7)`. -/
def Obligations.TheHandshakeLocksOnItsTimeline : Prop :=
  ∀ (s : State) (pct : Nat → Byte) (dbl : Nat → Bool),
    s.se.phase = .unsynced → s.se.hc1.toNat ≤ 99 → s.se.hc2.toNat ≤ 99 →
      (∀ n : Nat, n ≤ 246 + delayOf s.se → ∃ u : State,
        execAll (boundaryCalls s.cfg.boundaries 0 n pct dbl) s = .next u ∧ u.se.phase ≠ .locked
        ∧ (1 ≤ n → n ≤ 238 → u.se.phase = .countingDown) ∧ (239 ≤ n → u.se.phase = .awaitingFinal)
        ∧ u.io.events.map TxEvent.sent = s.io.events.map TxEvent.sent ++
            (List.range (min ((n + 1) / 2) 120)).map (fun k =>
              (frameBytes s.se.hc1 s.se.hc2 s.cfg.opcSyncCountdown (BitVec.ofNat 8 (241 - 2 * k)), .two)))
      ∧ ∃ t : State,
        execAll (boundaryCalls s.cfg.boundaries 0 (247 + delayOf s.se) pct dbl) s = .next t
        ∧ t.se.phase = .locked ∧ t.se.h.toNat = (246 + delayOf s.se) % s.cfg.boundaries
        ∧ t.se.ticksToNextTx.toNat = t.se.h.toNat + steadyPeriod s.se
        ∧ t.io.events.map TxEvent.sent = s.io.events.map TxEvent.sent ++
            (List.range 120).map (fun k =>
              (frameBytes s.se.hc1 s.se.hc2 s.cfg.opcSyncCountdown (BitVec.ofNat 8 (241 - 2 * k)), .two))
            ++ [(frameBytes s.se.hc1 s.se.hc2 s.cfg.opcSyncFinal 0, .two)]

/-- R186 item 4: from a Locked engine whose next send is due `P` boundaries on, a caller that makes every call sees no event for
`P - 1` boundaries and one valve-set frame of that call's percent at the `P`-th, after which the next is again due `P` on. -/
def Obligations.SteadySendsAreOnePeriodApart : Prop :=
  ∀ (s : State) (b : Nat) (pct : Nat → Byte) (dbl : Nat → Bool),
    s.se.phase = .locked → b % s.cfg.boundaries = s.se.h.toNat →
    s.se.ticksToNextTx.toNat = s.se.h.toNat + steadyPeriod s.se →
      ∃ t u : State,
        execAll (boundaryCalls s.cfg.boundaries (b + 1) (steadyPeriod s.se - 1) pct dbl) s = .next t
        ∧ t.io.events = s.io.events
        ∧ execAll (boundaryCalls s.cfg.boundaries (b + 1) (steadyPeriod s.se) pct dbl) s = .next u
        ∧ u.se.phase = .locked ∧ u.se.h.toNat = (b + steadyPeriod s.se) % s.cfg.boundaries
        ∧ u.se.ticksToNextTx.toNat = u.se.h.toNat + steadyPeriod s.se
        ∧ ∃ percent : Byte, percent.toNat = min (pct (b + steadyPeriod s.se)).toNat 100
          ∧ u.io.events.map TxEvent.sent = s.io.events.map TxEvent.sent ++
              [(frameBytes s.se.hc1 s.se.hc2 s.cfg.opcValveSet (scale percent),
                if dbl (b + steadyPeriod s.se) then .two else .one)]

/-! ### The SyncEngine's reset, configuration and queries -/

/-- R188 and R189: SYNC_RESET puts the engine back to Unsynced with every counter 0 and an empty buffer, keeps `SE.h` and the
house codes, sends nothing and answers 00. -/
def Obligations.SyncResetReturnsTheEngineToUnsynced : Prop :=
  ∀ s : State,
    exec .syncReset s = .next { s with
      se := { hc1 := s.se.hc1, hc2 := s.se.hc2, h := s.se.h, phase := .unsynced, countdown := 0, ticksToFinal := 0
              ticksToNextTx := 0, flag := false, commandedPercent := 0, txBuffer := List.replicate 46 0xFF }
      io.responses := s.io.responses ++ [[0x00]] }

/-- R190: SET_HOUSE_CODE stores a changed pair and resets the engine; the stored pair again changes nothing. Changing one code is a
change. -/
def Obligations.SetHouseCodeResetsExactlyOnAChange : Prop :=
  ∀ (s : State) (hc1 hc2 : Byte),
    (hc1 = s.se.hc1 → hc2 = s.se.hc2 →
      exec (.setHouseCode hc1 hc2) s = .next { s with io.responses := s.io.responses ++ [[0x00]] })
    ∧ (hc1 ≠ s.se.hc1 ∨ hc2 ≠ s.se.hc2 →
      exec (.setHouseCode hc1 hc2) s = .next { s with
        se := { hc1 := hc1, hc2 := hc2, h := s.se.h, phase := .unsynced, countdown := 0, ticksToFinal := 0
                ticksToNextTx := 0, flag := false, commandedPercent := 0, txBuffer := List.replicate 46 0xFF }
        io.responses := s.io.responses ++ [[0x00]] })

/-- R192, R193, R196 and R236: IS_LOCKED, GET_COMMANDED_PCT, GET_OPEN_FLAG and IS_CALLING_FOR_HEAT complete in every state, answer
their register, and change nothing but the responses. -/
def Obligations.QueriesAnswerTheirRegister : Prop :=
  ∀ s : State,
    (s.se.phase = .locked →
      exec .isLocked s = .next { s with io.responses := s.io.responses ++ [[0x00, 0x01]] })
    ∧ (s.se.phase ≠ .locked →
      exec .isLocked s = .next { s with io.responses := s.io.responses ++ [[0x00, 0x00]] })
    ∧ exec .getCommandedPct s = .next { s with io.responses := s.io.responses ++ [[0x00, s.se.commandedPercent]] }
    ∧ exec .getOpenFlag s = .next { s with
        io.responses := s.io.responses ++ [[0x00, if s.se.flag then 0x01 else 0x00]] }
    ∧ exec .isCallingForHeat s = .next { s with
        io.responses := s.io.responses ++ [[0x00, if s.ag.callForHeat then 0x01 else 0x00]] }

/-- R187 and R176: over every instruction and every state, the phases follow each other in order: the countdown starts only from
Unsynced by a timing call with a valid pair, AwaitingFinal comes only from CountingDown, Locked only from AwaitingFinal, and
the way back to Unsynced is a SYNC_RESET or a SET_HOUSE_CODE that changes the pair. -/
def Obligations.PhasesFollowEachOtherInOrder : Prop :=
  ∀ (s t : State) (i : Instr), exec i s = .next t → t.se.phase ≠ s.se.phase →
    (s.se.phase = .unsynced ∧ t.se.phase = .countingDown ∧ isTiming i = true
      ∧ s.se.hc1.toNat ≤ 99 ∧ s.se.hc2.toNat ≤ 99)
    ∨ (s.se.phase = .countingDown ∧ t.se.phase = .awaitingFinal ∧ isTiming i = true ∧ s.se.countdown = 3)
    ∨ (s.se.phase = .awaitingFinal ∧ t.se.phase = .locked ∧ isTiming i = true)
    ∨ (t.se.phase = .unsynced
        ∧ (i = .syncReset ∨ ∃ hc1 hc2 : Byte, i = .setHouseCode hc1 hc2 ∧ (hc1 ≠ s.se.hc1 ∨ hc2 ≠ s.se.hc2)))

/-! ### Whole-machine rules -/

/-- R74, but for its word on SUBMIT_REPORT: the six read-only requests change no state and emit no event, and the same one again gives
the same response; SYNC_RESET, SET_HOUSE_CODE with the stored pair and SET_THRESHOLDS are idempotent; SYNC_FIRST, SYNC_NEXT and
AGG_TICK are not. R74 also calls SUBMIT_REPORT not idempotent; in R74's sense, a second one in a row, that is false by R221, which the
model follows by choice (log entry 12). The last clause says only the weaker thing that both rules allow: a report that comes again
after a tick changes a register. -/
def Obligations.ReadOnlyAndIdempotentRequests : Prop :=
  (∀ (s : State) (i : Instr), isReadOnly i = true → ∃ r : List Byte,
    exec i s = .next (respond r s) ∧ exec i (respond r s) = .next (respond r (respond r s)))
  ∧ (∀ s : State, ∃ t u : State, exec .syncReset s = .next t ∧ exec .syncReset t = .next u
      ∧ u.se = t.se ∧ u.ag = t.ag ∧ u.io.events = s.io.events)
  ∧ (∀ s : State, ∃ t : State, exec (.setHouseCode s.se.hc1 s.se.hc2) s = .next t
      ∧ t.se = s.se ∧ t.ag = s.ag ∧ t.io.events = s.io.events)
  ∧ (∀ (s : State) (a b : Byte), ∃ t u : State, exec (.setThresholds a b) s = .next t
      ∧ exec (.setThresholds a b) t = .next u ∧ u.se = t.se ∧ u.ag = t.ag ∧ u.io.events = s.io.events)
  ∧ (∃ (s t u : State) (pct : Byte) (dbl : Bool),
      exec (.syncFirst pct dbl) s = .next t ∧ exec (.syncFirst pct dbl) t = .next u ∧ u.se ≠ t.se)
  ∧ (∃ (s t u : State) (pct : Byte) (dbl : Bool),
      exec (.syncNext pct dbl) s = .next t ∧ exec (.syncNext pct dbl) t = .next u ∧ u.se ≠ t.se)
  ∧ (∃ s t u : State, exec .aggTick s = .next t ∧ exec .aggTick t = .next u ∧ u.ag ≠ t.ag)
  ∧ (∃ (s t u v : State) (id : Half) (pct : Byte),
      exec (.submitReport id pct) s = .next t ∧ exec .aggTick t = .next u
      ∧ exec (.submitReport id pct) u = .next v ∧ v.ag ≠ u.ag)

/-- R50, the columns of writes: over every instruction that gives a next state, the registers it does not write are unchanged. Two
things in it are the model's choice: what a frame kind executed by itself writes (the buffer, and VALVE_SET the commanded percent) or
leaves is log entry 4, and the supply and the counter of `send` results (`sendResults`, `drawCount`) are log entry 3. -/
def Obligations.EveryInstructionLeavesTheOtherRegisters : Prop :=
  ∀ (s t : State) (i : Instr), exec i s = .next t →
    t.cfg = s.cfg ∧ t.io.requests = s.io.requests
    ∧ ((∀ hc1 hc2 : Byte, i ≠ .setHouseCode hc1 hc2) → t.se.hc1 = s.se.hc1 ∧ t.se.hc2 = s.se.hc2)
    ∧ (writesEngine i = false →
        t.se.phase = s.se.phase ∧ t.se.countdown = s.se.countdown ∧ t.se.ticksToFinal = s.se.ticksToFinal
        ∧ t.se.ticksToNextTx = s.se.ticksToNextTx ∧ t.se.flag = s.se.flag)
    ∧ (writesEngine i = false → (∀ pct : Byte, i ≠ .valveSet pct) → t.se.commandedPercent = s.se.commandedPercent)
    ∧ (writesEngine i = false → i.isRequest = true → t.se.txBuffer = s.se.txBuffer)
    ∧ (isTiming i = false →
        t.se.h = s.se.h ∧ t.io.events = s.io.events ∧ t.io.sendResults = s.io.sendResults
        ∧ t.io.drawCount = s.io.drawCount)
    ∧ ((∀ (id : Half) (pct : Byte), i ≠ .submitReport id pct) → i ≠ .aggTick → t.ag.slots = s.ag.slots)
    ∧ (i ≠ .aggTick →
        t.ag.callForHeat = s.ag.callForHeat ∧ t.ag.ticksInCurrentState = s.ag.ticksInCurrentState)
    ∧ ((∀ a b : Byte, i ≠ .setThresholds a b) →
        t.ag.minIndividual = s.ag.minIndividual ∧ t.ag.minAggregate = s.ag.minAggregate)

/-- R50, the columns of reads: the codec and the SyncEngine do not read the aggregator, and the codec and the aggregator do not
read the SyncEngine. -/
def Obligations.ComponentsDoNotReadEachOther : Prop :=
  ∀ (s t : State) (i : Instr), exec i s = .next t →
    (isAggregatorRequest i = false → ∀ g : Aggregator, exec i { s with ag := g } = .next { t with ag := g })
    ∧ (isAggregatorRequest i = true → ∀ e : SyncEngine, exec i { s with se := e } = .next { t with se := e })
    ∧ (∀ (hc1 hc2 opcode ext : Byte) (bytes : List Byte), i = .encode hc1 hc2 opcode ext ∨ i = .decode bytes →
        ∀ (g : Aggregator) (e : SyncEngine),
          exec i { s with se := e, ag := g } = .next { t with se := e, ag := g })

/-- R107, R112, R173 and R178: over every instruction, at most one event is emitted, by a timing call only; its frame is one of the
three kinds for the stored pair; a handshake frame goes in two copies; each copy takes one send result. That a copy takes its result from a
supply and that the results are noted in the event is the model's choice of log entries 3 and 16. -/
def Obligations.OnlyTimingCallsTransmitAndOneFrameEach : Prop :=
  ∀ (s t : State) (i : Instr), exec i s = .next t →
    t.io.events = s.io.events
    ∨ (isTiming i = true ∧ ∃ e : TxEvent, t.io.events = s.io.events ++ [e]
        ∧ e.sendOk.length = e.copies.count
        ∧ t.io.sendResults = s.io.sendResults.drop e.copies.count
        ∧ ((∃ c : Byte, c.toNat % 2 = 1 ∧ e.copies = .two
              ∧ e.frame = frameBytes s.se.hc1 s.se.hc2 s.cfg.opcSyncCountdown c)
          ∨ (e.copies = .two ∧ e.frame = frameBytes s.se.hc1 s.se.hc2 s.cfg.opcSyncFinal 0)
          ∨ (∃ percent : Byte, percent.toNat ≤ 100
              ∧ e.frame = frameBytes s.se.hc1 s.se.hc2 s.cfg.opcValveSet (scale percent))))

/-- R183 with R54: the send results decide nothing but `SE.flag`. Two states that differ only in the results to be drawn give, by
any instruction, states that differ only in the flag, the results still to be drawn, and the results noted beside an event. -/
def Obligations.SendResultsDecideOnlyTheOpenFlag : Prop :=
  ∀ (s t t' : State) (i : Instr) (results : List Bool) (draws : Nat),
    exec i s = .next t → exec i { s with io.sendResults := results, io.drawCount := draws } = .next t' →
      { t'.se with flag := t.se.flag } = t.se ∧ t'.ag = t.ag ∧ t'.cfg = t.cfg
      ∧ t'.io.requests = t.io.requests ∧ t'.io.responses = t.io.responses
      ∧ t'.io.events.map TxEvent.sent = t.io.events.map TxEvent.sent

/-- R75: when the packet at the head of the port decodes to an instruction, the step takes the packet from the port and is the
execution of that instruction. -/
def Obligations.AStepRunsTheDecodedInstruction : Prop :=
  ∀ (s : State) (p : List Byte) (rest : List (List Byte)) (i : Instr),
    s.io.requests = p :: rest → decodePacket p = .ok i → step s = exec i { s with io.requests := rest }

/-- R31, and the model's choice of log entry 6 that such a step is one at all: with no request at the port a step changes nothing. -/
def Obligations.AStepWithoutARequestChangesNothing : Prop :=
  ∀ s : State, s.io.requests = [] → step s = .next s

/-- R260, R262, R268 and R307: the block never stops. Every packet, legal or not, gets exactly one response; its first byte is a
status of the table; and a response other than OK leaves every register and the radio channel as they were. -/
def Obligations.EveryPacketGetsOneResponse : Prop :=
  ∀ (s : State) (p : List Byte) (rest : List (List Byte)), s.io.requests = p :: rest →
    ∃ (t : State) (status : Byte) (payload : List Byte),
      step s = .next t ∧ t.io.requests = rest ∧ t.cfg = s.cfg
      ∧ t.io.responses = s.io.responses ++ [status :: payload]
      ∧ status ∈ [0x00, 0x01, 0x02, 0x03, 0x04, 0x05, 0x06, 0x80, 0x81]
      ∧ (status ≠ 0x00 →
          payload = [] ∧ t = { s with io.requests := rest, io.responses := s.io.responses ++ [[status]] })

/-! ### The BoilerAggregator -/

/-- R225: the three cases in which SUBMIT_REPORT answers 0 and changes nothing. -/
def Obligations.ReportsAreRejectedWithoutAChange : Prop :=
  ∀ (s : State) (id : Half) (pct : Byte),
    (id = 0xFFFF
      ∨ 100 < pct.toNat
      ∨ ((∀ x ∈ s.ag.slots, x.id ≠ 0xFFFF ∧ x.id ≠ id) ∧ pct.toNat < s.ag.minIndividual.toNat)) →
    exec (.submitReport id pct) s = .next { s with io.responses := s.io.responses ++ [[0x00, 0x00]] }

/-- R221 with R222 and R220: a valid report for an id the table holds is accepted, whatever its percent and however full the table;
the lowest slot of that id, live or not, becomes (id, 60, pct) in place, and nothing else changes. -/
def Obligations.AReportRefreshesItsOwnSlot : Prop :=
  ∀ (s : State) (id : Half) (pct : Byte) (k : Nat) (x : Slot),
    id ≠ 0xFFFF → pct.toNat ≤ 100 → s.ag.slots[k]? = some x → x.id = id →
    (∀ (j : Nat) (y : Slot), j < k → s.ag.slots[j]? = some y → y.id ≠ id) →
      exec (.submitReport id pct) s = .next { s with
        ag.slots := s.ag.slots.set k { id := id, ticksUntilOff := 60, percentOpen := pct }
        io.responses := s.io.responses ++ [[0x00, 0x01]] }

/-- R221 with R223 and R220: a valid report for an id the table does not hold claims the lowest empty slot. -/
def Obligations.AReportClaimsTheFirstEmptySlot : Prop :=
  ∀ (s : State) (id : Half) (pct : Byte) (k : Nat) (x : Slot),
    id ≠ 0xFFFF → pct.toNat ≤ 100 → (∀ y ∈ s.ag.slots, y.id ≠ id) →
    s.ag.slots[k]? = some x → x.id = 0xFFFF →
    (∀ (j : Nat) (y : Slot), j < k → s.ag.slots[j]? = some y → y.id ≠ 0xFFFF) →
      exec (.submitReport id pct) s = .next { s with
        ag.slots := s.ag.slots.set k { id := id, ticksUntilOff := 60, percentOpen := pct }
        io.responses := s.io.responses ++ [[0x00, 0x01]] }

/-- R221 with R224 and R232: a live heat call for a new id at a full table evicts the slot that is least by signed `ticksUntilOff`, then
`percentOpen`, then index. The spec calls the policy implementation-defined (R224, I1); this
order is the spec's default, taken by the model (log entry 11). -/
def Obligations.AReportEvictsTheLeastSlot : Prop :=
  ∀ (s : State) (id : Half) (pct : Byte),
    id ≠ 0xFFFF → pct.toNat ≤ 100 → s.ag.slots ≠ [] → (∀ y ∈ s.ag.slots, y.id ≠ 0xFFFF ∧ y.id ≠ id) →
    s.ag.minIndividual.toNat ≤ pct.toNat →
      ∃ (k : Nat) (x : Slot), s.ag.slots[k]? = some x
        ∧ (∀ (j : Nat) (y : Slot), s.ag.slots[j]? = some y → j ≠ k →
            x.ticksUntilOff.toInt < y.ticksUntilOff.toInt
            ∨ (x.ticksUntilOff.toInt = y.ticksUntilOff.toInt
                ∧ (x.percentOpen.toNat < y.percentOpen.toNat
                  ∨ (x.percentOpen.toNat = y.percentOpen.toNat ∧ k < j))))
        ∧ exec (.submitReport id pct) s = .next { s with
            ag.slots := s.ag.slots.set k { id := id, ticksUntilOff := 60, percentOpen := pct }
            io.responses := s.io.responses ++ [[0x00, 0x01]] }

/-- R227, one tick: AGG_TICK completes in every state; an occupied slot at -128 is freed, any other occupied slot counts down by
exactly 1 and keeps its id and percent, an empty slot stays, and no slot moves. -/
def Obligations.ATickCountsEverySlotDown : Prop :=
  ∀ s : State, ∃ t : State, exec .aggTick s = .next t
    ∧ t.se = s.se ∧ t.cfg = s.cfg ∧ t.io = { s.io with responses := s.io.responses ++ [[0x00]] }
    ∧ t.ag.slots.length = s.ag.slots.length
    ∧ ∀ (k : Nat) (x : Slot), s.ag.slots[k]? = some x →
        ∃ y : Slot, t.ag.slots[k]? = some y
          ∧ (x.id = 0xFFFF → y = x)
          ∧ (x.id ≠ 0xFFFF → x.ticksUntilOff.toInt = -128 →
              y = { id := 0xFFFF, ticksUntilOff := 0, percentOpen := 0 })
          ∧ (x.id ≠ 0xFFFF → x.ticksUntilOff.toInt ≠ -128 →
              y.id = x.id ∧ y.percentOpen = x.percentOpen ∧ y.ticksUntilOff.toInt = x.ticksUntilOff.toInt - 1)

/-- R227, the lifetime of a report: after `n` ticks without another request a slot written by a report stands at `60 - n` for `n` up to
188 (live up to 60, excluded from 61 on), and is free from tick 189 on. -/
def Obligations.AReportLivesSixtyTicksAndIsFreedAt189 : Prop :=
  ∀ (s : State) (n k : Nat) (id : Half) (pct : Byte),
    id ≠ 0xFFFF → s.ag.slots[k]? = some { id := id, ticksUntilOff := 60, percentOpen := pct } →
      ∃ (t : State) (y : Slot), execAll (List.replicate n .aggTick) s = .next t ∧ t.ag.slots[k]? = some y
        ∧ (n ≤ 188 → y.id = id ∧ y.percentOpen = pct ∧ y.ticksUntilOff.toInt = 60 - (n : Int))
        ∧ (y.live = true ↔ n ≤ 60)
        ∧ (189 ≤ n → y = { id := 0xFFFF, ticksUntilOff := 0, percentOpen := 0 })

/-- R228 and R233: the decision of AGG_TICK, from the slots as this tick leaves them and from the exact, uncapped sum. A demand that differs
from the current decision is accepted iff the hold time is over; otherwise the counter goes on, saturating at 255. -/
def Obligations.ATickDecidesFromTheExactSum : Prop :=
  ∀ (s : State) (desired : Bool), ∃ t : State, exec .aggTick s = .next t
    ∧ t.ag.minIndividual = s.ag.minIndividual ∧ t.ag.minAggregate = s.ag.minAggregate
    ∧ ((desired = true ↔
          (∃ x ∈ t.ag.slots, x.id ≠ 0xFFFF ∧ 0 ≤ x.ticksUntilOff.toInt
            ∧ s.ag.minIndividual.toNat ≤ x.percentOpen.toNat)
          ∧ s.ag.minAggregate.toNat ≤ exactSum t.ag.slots) →
        (desired ≠ s.ag.callForHeat ∧ s.cfg.minTicksInEitherState.toNat ≤ s.ag.ticksInCurrentState.toNat →
          t.ag.callForHeat = desired ∧ t.ag.ticksInCurrentState = 0)
        ∧ (¬ (desired ≠ s.ag.callForHeat
              ∧ s.cfg.minTicksInEitherState.toNat ≤ s.ag.ticksInCurrentState.toNat) →
          t.ag.callForHeat = s.ag.callForHeat
          ∧ t.ag.ticksInCurrentState.toNat = min (s.ag.ticksInCurrentState.toNat + 1) 255))

/-- R233: whatever requests come, in whatever order, the call-for-heat decision keeps its value as long as the ticks among them do not
make up `MIN_TICKS_IN_EITHER_STATE` with those counted before. -/
def Obligations.TheDecisionHoldsForItsMinimumTicks : Prop :=
  ∀ (s t : State) (is : List Instr),
    s.ag.ticksInCurrentState.toNat + is.count .aggTick ≤ s.cfg.minTicksInEitherState.toNat →
    execAll is s = .next t → t.ag.callForHeat = s.ag.callForHeat

/-- R238 item 2: live slots that each hold less than `AG.minIndividual` never start a call for heat, whatever their sum. -/
def Obligations.SmallOpeningsAloneNeverCallForHeat : Prop :=
  ∀ (s : State) (n : Nat), s.ag.callForHeat = false →
    (∀ x ∈ s.ag.slots, x.id ≠ 0xFFFF → 0 ≤ x.ticksUntilOff.toInt →
      x.percentOpen.toNat < s.ag.minIndividual.toNat) →
      ∃ t : State, execAll (List.replicate n .aggTick) s = .next t ∧ t.ag.callForHeat = false

/-- R234 and R235: SET_THRESHOLDS completes in every state, coerces both thresholds into their legal ranges, and changes nothing else. -/
def Obligations.ThresholdsAreCoercedNeverRejected : Prop :=
  ∀ (s : State) (a b : Byte), ∃ mi ma : Byte,
    mi.toNat = min (max a.toNat 1) 100 ∧ ma.toNat = min (max b.toNat mi.toNat) 100
    ∧ 1 ≤ mi.toNat ∧ mi.toNat ≤ 100 ∧ mi.toNat ≤ ma.toNat ∧ ma.toNat ≤ 100
    ∧ exec (.setThresholds a b) s = .next { s with
        ag.minIndividual := mi, ag.minAggregate := ma, io.responses := s.io.responses ++ [[0x00]] }

/-- R238 item 1: one report of 80 % for id 1 at thresholds 50/50, from the reset values of the decision, with ticks and nothing else: the
call for heat is on from tick `MIN_TICKS + 1`, and off again from tick 61, or from tick `2 * MIN_TICKS + 2` where the hold time
is 30 to 59 ticks; with a hold time of 60 or more it is never on. -/
def Obligations.OneReportCallsForHeatOnItsTimeline : Prop :=
  ∀ (s : State) (n : Nat),
    s.ag = { slots := { id := 1, ticksUntilOff := 60, percentOpen := 80 } :: List.replicate 7 Slot.empty
             callForHeat := false, ticksInCurrentState := 0, minIndividual := 50, minAggregate := 50 } →
      ∃ t : State, execAll (List.replicate n .aggTick) s = .next t
        ∧ (s.cfg.minTicksInEitherState.toNat ≤ 29 →
            (t.ag.callForHeat = true ↔ s.cfg.minTicksInEitherState.toNat + 1 ≤ n ∧ n < 61))
        ∧ (30 ≤ s.cfg.minTicksInEitherState.toNat → s.cfg.minTicksInEitherState.toNat ≤ 59 →
            (t.ag.callForHeat = true ↔
              s.cfg.minTicksInEitherState.toNat + 1 ≤ n ∧ n < 2 * s.cfg.minTicksInEitherState.toNat + 2))
        ∧ (60 ≤ s.cfg.minTicksInEitherState.toNat → t.ag.callForHeat = false)

/-! ### Repeated reports, and the timeline of any caller that heeds needMore -/

/-- R221 and R225, for a report that comes twice in a row: in every state the second gets the same response as the first and changes
no register, whether the report refreshed a slot, claimed one, evicted one or was rejected. R74 calls SUBMIT_REPORT not idempotent and
no ruling of the spec names the pair; following R221 against that word is the model's choice (log entry 12). -/
def Obligations.AReportTwiceInARowChangesNothingMore : Prop :=
  ∀ (s : State) (id : Half) (pct : Byte), ∃ (t : State) (r : List Byte),
    exec (.submitReport id pct) s = .next t
    ∧ t.io = { s.io with responses := s.io.responses ++ [r] }
    ∧ exec (.submitReport id pct) t = .next { t with io.responses := t.io.responses ++ [r] }

/-- R186: the first call of an Unsynced engine with a valid pair is made at any boundary `b` (a SYNC_NEXT if it is no cycle's start), and
the caller makes every call that needMore asks for and any others it likes, `stops` saying at which boundaries it gives up after
a needMore of 0. Counted from the first even boundary `t1` at or after `b`, the frames sent up to every boundary are exactly those
of items 1, 3 and 4, and the phase is the one of items 2 and 3. -/
def Obligations.ACallerThatHeedsNeedMoreSeesTheTimeline : Prop :=
  ∀ (s : State) (b n : Nat) (pct : Nat → Byte) (dbl stops : Nat → Bool),
    s.se.phase = .unsynced → s.se.hc1.toNat ≤ 99 → s.se.hc2.toNat ≤ 99 →
    (b % s.cfg.boundaries = 0 ∨ b % s.cfg.boundaries = s.se.h.toNat + 1) →
      ∃ u t : State, exec (boundaryCall s.cfg.boundaries b pct dbl) s = .next u
        ∧ heedingCalls pct dbl stops (b + 1) n false u = .next t
        ∧ t.se.phase = timelinePhase s.se (b + b % 2) (b + n)
        ∧ t.io.events.map TxEvent.sent = s.io.events.map TxEvent.sent ++
            (List.range (n + 1)).flatMap (fun k => timelineFrames s (b + b % 2) pct dbl (b + k))
end

