-- ==== Sys2Proof/Laws/Codec.lean ====
section
/-!
SUPPORT. What the codec's parts do with one another's output: a bit, a byte and a buffer, written and read back.
-/
namespace Sys2Proof.Machine

/-! ### Symbols in buffer bytes -/

/-- The eight bits of a byte made of eight bits are those bits (R92). -/
theorem bitsMsbFirst_byteOfBits (b0 b1 b2 b3 b4 b5 b6 b7 : Bool) :
    bitsMsbFirst (byteOfBits [b0, b1, b2, b3, b4, b5, b6, b7]) = [b0, b1, b2, b3, b4, b5, b6, b7] := by
  cases b0 <;> cases b1 <;> cases b2 <;> cases b3 <;> cases b4 <;> cases b5 <;> cases b6 <;> cases b7 <;> rfl

/-- A byte is made of its eight bits. -/
theorem byteOfBits_bitsMsbFirst : ∀ v : Byte, byteOfBits (bitsMsbFirst v) = v := by decide

@[simp] theorem bitsMsbFirst_length (v : Byte) : (bitsMsbFirst v).length = 8 := rfl

@[simp] theorem bufferSymbols_nil : bufferSymbols [] = [] := rfl

@[simp] theorem bufferSymbols_cons (b : Byte) (rest : List Byte) :
    bufferSymbols (b :: rest) = bitsMsbFirst b ++ bufferSymbols rest := rfl

@[simp] theorem bufferSymbols_append (xs ys : List Byte) :
    bufferSymbols (xs ++ ys) = bufferSymbols xs ++ bufferSymbols ys := by
  simp [bufferSymbols]

/-- Packing loses no symbol: reading a packed buffer gives the symbols, then the zero padding of its last byte (R92, R102). -/
theorem bufferSymbols_packSymbols (s : List Bool) :
    ∃ pad : Nat, pad < 8 ∧ (s.length + pad) % 8 = 0
      ∧ bufferSymbols (packSymbols s) = s ++ List.replicate pad false := by
  match s with
  | s0 :: s1 :: s2 :: s3 :: s4 :: s5 :: s6 :: s7 :: rest =>
    obtain ⟨pad, hlt, hmod, heq⟩ := bufferSymbols_packSymbols rest
    refine ⟨pad, hlt, by simp only [List.length_cons]; omega, ?_⟩
    simp [packSymbols, bitsMsbFirst_byteOfBits, heq]
  | [] => exact ⟨0, by omega, rfl, rfl⟩
  | [a] => exact ⟨7, by omega, by simp, by simp [packSymbols, bitsMsbFirst_byteOfBits, List.replicate]⟩
  | [a, b] => exact ⟨6, by omega, by simp, by simp [packSymbols, bitsMsbFirst_byteOfBits, List.replicate]⟩
  | [a, b, c] => exact ⟨5, by omega, by simp, by simp [packSymbols, bitsMsbFirst_byteOfBits, List.replicate]⟩
  | [a, b, c, d] => exact ⟨4, by omega, by simp, by simp [packSymbols, bitsMsbFirst_byteOfBits, List.replicate]⟩
  | [a, b, c, d, e] => exact ⟨3, by omega, by simp, by simp [packSymbols, bitsMsbFirst_byteOfBits, List.replicate]⟩
  | [a, b, c, d, e, f] =>
    exact ⟨2, by omega, by simp, by simp [packSymbols, bitsMsbFirst_byteOfBits, List.replicate]⟩
  | [a, b, c, d, e, f, g] =>
    exact ⟨1, by omega, by simp, by simp [packSymbols, bitsMsbFirst_byteOfBits, List.replicate]⟩

/-! ### Reading back a logical bit, a byte and a preamble -/

@[simp] theorem symbolsOf_nil : symbolsOf [] = [] := rfl

@[simp] theorem symbolsOf_cons (b : Bool) (bits : List Bool) :
    symbolsOf (b :: bits) = bitSymbols b ++ symbolsOf bits := rfl

/-- `ReadBit` reads back the symbols of a logical bit (R93, R142). -/
@[simp] theorem readBit_bitSymbols (b : Bool) (rest : List Bool) :
    readBit (bitSymbols b ++ rest) = .ok (b, rest) := by
  cases b <;> rfl

/-- The value that `n` logical bits, the most significant first, add to `v`. -/
def shiftIn (v : Byte) (bits : List Bool) : Byte := bits.foldl (fun a b => 2 * a + boolByte b) v

theorem readBits_symbolsOf (bits : List Bool) (v : Byte) (rest : List Bool) :
    readBits bits.length v (symbolsOf bits ++ rest) = .ok (shiftIn v bits, rest) := by
  induction bits generalizing v with
  | nil => rfl
  | cons b bits ih =>
    simp [readBits, List.append_assoc, ih, shiftIn]

theorem shiftIn_bitsMsbFirst : ∀ v : Byte, shiftIn 0 (bitsMsbFirst v) = v := by decide

theorem parityBit_even : ∀ v : Byte, (popcount v + (parityBit v).toNat) % 2 = 0 := by decide

/-- `ReadByteWithParity` reads back a protected byte (R96, R144). -/
@[simp] theorem readByteWithParity_byteSymbols (v : Byte) (rest : List Bool) :
    readByteWithParity (byteSymbols v ++ rest) = .ok (v, rest) := by
  have h : byteSymbols v ++ rest = symbolsOf (bitsMsbFirst v) ++ (bitSymbols (parityBit v) ++ rest) := by
    simp [byteSymbols, protectedBits, symbolsOf]
  have h8 := readBits_symbolsOf (bitsMsbFirst v) 0 (bitSymbols (parityBit v) ++ rest)
  rw [bitsMsbFirst_length] at h8
  rw [readByteWithParity, h, h8, shiftIn_bitsMsbFirst]
  simp only [readBit_bitSymbols]
  rw [if_neg (by simp [parityBit_even v])]

/-- The leading-one scan passes over encoded zeros (R143), as long as it may read once more than there are zeros. -/
theorem scanLeadingOne_zeros (n k : Nat) (rest : List Bool) (h : n < k) :
    scanLeadingOne k (symbolsOf (List.replicate n false) ++ bitSymbols true ++ rest) = .ok rest := by
  induction n generalizing k with
  | zero =>
    cases k with
    | zero => omega
    | succ k => simp [scanLeadingOne]
  | succ n ih =>
    cases k with
    | zero => omega
    | succ k =>
      have := ih k (by omega)
      simp only [List.append_assoc] at this
      simp [scanLeadingOne, List.replicate_succ, List.append_assoc, this]

/-- What `ReadBit` may answer: it consumes the symbols of the bit it reads, and fails in one of three ways (R142, R148). -/
theorem readBit_cases (s : List Bool) :
    (∃ (b : Bool) (rest : List Bool), s = bitSymbols b ++ rest ∧ readBit s = .ok (b, rest))
    ∨ readBit s = .error .truncatedStream ∨ readBit s = .error .badLeadingEdge
    ∨ readBit s = .error .badSymbolPair := by
  match s with
  | [] => exact .inr (.inl rfl)
  | [_] => exact .inr (.inl rfl)
  | false :: _ :: _ => exact .inr (.inr (.inl rfl))
  | true :: false :: _ => exact .inr (.inr (.inl rfl))
  | [true, true] => exact .inr (.inl rfl)
  | [true, true, _] => exact .inr (.inl rfl)
  | true :: true :: false :: false :: rest => exact .inl ⟨false, rest, rfl, rfl⟩
  | true :: true :: _ :: true :: _ => exact .inr (.inr (.inr (by cases ‹Bool› <;> rfl)))
  | [true, true, true, false] => exact .inr (.inl rfl)
  | [true, true, true, false, _] => exact .inr (.inl rfl)
  | true :: true :: true :: false :: false :: false :: rest => exact .inl ⟨true, rest, rfl, rfl⟩
  | true :: true :: true :: false :: true :: _ :: _ => exact .inr (.inr (.inr rfl))
  | true :: true :: true :: false :: false :: true :: _ => exact .inr (.inr (.inr rfl))

end Sys2Proof.Machine
end

