-- ==== Sys2Proof/Laws/State.lean ====
section
/-!
SUPPORT. One lemma per field per update of the state: what each named update writes, and that it leaves the rest.
-/
namespace Sys2Proof.Machine

/-! ### `respond` and what it is written with -/

@[simp] theorem respond_se (bytes : List Byte) (s : State) :
    (respond bytes s).se = s.se := rfl

@[simp] theorem respond_ag (bytes : List Byte) (s : State) :
    (respond bytes s).ag = s.ag := rfl

@[simp] theorem respond_io_requests (bytes : List Byte) (s : State) :
    (respond bytes s).io.requests = s.io.requests := rfl

@[simp] theorem respond_io_sendResults (bytes : List Byte) (s : State) :
    (respond bytes s).io.sendResults = s.io.sendResults := rfl

@[simp] theorem respond_io_drawCount (bytes : List Byte) (s : State) :
    (respond bytes s).io.drawCount = s.io.drawCount := rfl

@[simp] theorem respond_io_responses (bytes : List Byte) (s : State) :
    (respond bytes s).io.responses = s.io.responses ++ [bytes] := rfl

@[simp] theorem respond_io_events (bytes : List Byte) (s : State) :
    (respond bytes s).io.events = s.io.events := rfl

@[simp] theorem respond_cfg (bytes : List Byte) (s : State) :
    (respond bytes s).cfg = s.cfg := rfl

@[simp] theorem respondOk_se (payload : List Byte) (s : State) :
    (respondOk payload s).se = s.se := rfl

@[simp] theorem respondOk_ag (payload : List Byte) (s : State) :
    (respondOk payload s).ag = s.ag := rfl

@[simp] theorem respondOk_io_requests (payload : List Byte) (s : State) :
    (respondOk payload s).io.requests = s.io.requests := rfl

@[simp] theorem respondOk_io_sendResults (payload : List Byte) (s : State) :
    (respondOk payload s).io.sendResults = s.io.sendResults := rfl

@[simp] theorem respondOk_io_drawCount (payload : List Byte) (s : State) :
    (respondOk payload s).io.drawCount = s.io.drawCount := rfl

@[simp] theorem respondOk_io_responses (payload : List Byte) (s : State) :
    (respondOk payload s).io.responses = s.io.responses ++ [statusOk :: payload] := rfl

@[simp] theorem respondOk_io_events (payload : List Byte) (s : State) :
    (respondOk payload s).io.events = s.io.events := rfl

@[simp] theorem respondOk_cfg (payload : List Byte) (s : State) :
    (respondOk payload s).cfg = s.cfg := rfl

@[simp] theorem raiseFault_se (f : RequestFault) (s : State) :
    (raiseFault f s).se = s.se := rfl

@[simp] theorem raiseFault_ag (f : RequestFault) (s : State) :
    (raiseFault f s).ag = s.ag := rfl

@[simp] theorem raiseFault_io_requests (f : RequestFault) (s : State) :
    (raiseFault f s).io.requests = s.io.requests := rfl

@[simp] theorem raiseFault_io_sendResults (f : RequestFault) (s : State) :
    (raiseFault f s).io.sendResults = s.io.sendResults := rfl

@[simp] theorem raiseFault_io_drawCount (f : RequestFault) (s : State) :
    (raiseFault f s).io.drawCount = s.io.drawCount := rfl

@[simp] theorem raiseFault_io_responses (f : RequestFault) (s : State) :
    (raiseFault f s).io.responses = s.io.responses ++ [[f.status]] := rfl

@[simp] theorem raiseFault_io_events (f : RequestFault) (s : State) :
    (raiseFault f s).io.events = s.io.events := rfl

@[simp] theorem raiseFault_cfg (f : RequestFault) (s : State) :
    (raiseFault f s).cfg = s.cfg := rfl

/-! ### `takeRequest` -/

@[simp] theorem takeRequest_se (rest : List (List Byte)) (s : State) :
    (takeRequest rest s).se = s.se := rfl

@[simp] theorem takeRequest_ag (rest : List (List Byte)) (s : State) :
    (takeRequest rest s).ag = s.ag := rfl

@[simp] theorem takeRequest_io_requests (rest : List (List Byte)) (s : State) :
    (takeRequest rest s).io.requests = rest := rfl

@[simp] theorem takeRequest_io_sendResults (rest : List (List Byte)) (s : State) :
    (takeRequest rest s).io.sendResults = s.io.sendResults := rfl

@[simp] theorem takeRequest_io_drawCount (rest : List (List Byte)) (s : State) :
    (takeRequest rest s).io.drawCount = s.io.drawCount := rfl

@[simp] theorem takeRequest_io_responses (rest : List (List Byte)) (s : State) :
    (takeRequest rest s).io.responses = s.io.responses := rfl

@[simp] theorem takeRequest_io_events (rest : List (List Byte)) (s : State) :
    (takeRequest rest s).io.events = s.io.events := rfl

@[simp] theorem takeRequest_cfg (rest : List (List Byte)) (s : State) :
    (takeRequest rest s).cfg = s.cfg := rfl

/-! ### `compose` and `composeValveSet` -/

@[simp] theorem compose_se_hc1 (op ext : Byte) (s : State) :
    (compose op ext s).se.hc1 = s.se.hc1 := by dsimp only [compose]

@[simp] theorem compose_se_hc2 (op ext : Byte) (s : State) :
    (compose op ext s).se.hc2 = s.se.hc2 := by dsimp only [compose]

@[simp] theorem compose_se_phase (op ext : Byte) (s : State) :
    (compose op ext s).se.phase = s.se.phase := by dsimp only [compose]

@[simp] theorem compose_se_countdown (op ext : Byte) (s : State) :
    (compose op ext s).se.countdown = s.se.countdown := by dsimp only [compose]

@[simp] theorem compose_se_ticksToFinal (op ext : Byte) (s : State) :
    (compose op ext s).se.ticksToFinal = s.se.ticksToFinal := by dsimp only [compose]

@[simp] theorem compose_se_ticksToNextTx (op ext : Byte) (s : State) :
    (compose op ext s).se.ticksToNextTx = s.se.ticksToNextTx := by dsimp only [compose]

@[simp] theorem compose_se_flag (op ext : Byte) (s : State) :
    (compose op ext s).se.flag = s.se.flag := by dsimp only [compose]

@[simp] theorem compose_se_commandedPercent (op ext : Byte) (s : State) :
    (compose op ext s).se.commandedPercent = s.se.commandedPercent := by dsimp only [compose]

@[simp] theorem compose_se_h (op ext : Byte) (s : State) :
    (compose op ext s).se.h = s.se.h := by dsimp only [compose]

@[simp] theorem compose_se_txBuffer (op ext : Byte) (s : State) :
    (compose op ext s).se.txBuffer = overlay (encodeFrame s.se.hc1 s.se.hc2 op ext) s.se.txBuffer := by
  dsimp only [compose]

@[simp] theorem compose_ag (op ext : Byte) (s : State) :
    (compose op ext s).ag = s.ag := by dsimp only [compose]

@[simp] theorem compose_io (op ext : Byte) (s : State) :
    (compose op ext s).io = s.io := by dsimp only [compose]

@[simp] theorem compose_cfg (op ext : Byte) (s : State) :
    (compose op ext s).cfg = s.cfg := by dsimp only [compose]

@[simp] theorem composeValveSet_se_hc1 (pct : Byte) (s : State) :
    (composeValveSet pct s).se.hc1 = s.se.hc1 := by dsimp only [composeValveSet, compose]

@[simp] theorem composeValveSet_se_hc2 (pct : Byte) (s : State) :
    (composeValveSet pct s).se.hc2 = s.se.hc2 := by dsimp only [composeValveSet, compose]

@[simp] theorem composeValveSet_se_phase (pct : Byte) (s : State) :
    (composeValveSet pct s).se.phase = s.se.phase := by dsimp only [composeValveSet, compose]

@[simp] theorem composeValveSet_se_countdown (pct : Byte) (s : State) :
    (composeValveSet pct s).se.countdown = s.se.countdown := by dsimp only [composeValveSet, compose]

@[simp] theorem composeValveSet_se_ticksToFinal (pct : Byte) (s : State) :
    (composeValveSet pct s).se.ticksToFinal = s.se.ticksToFinal := by dsimp only [composeValveSet, compose]

@[simp] theorem composeValveSet_se_ticksToNextTx (pct : Byte) (s : State) :
    (composeValveSet pct s).se.ticksToNextTx = s.se.ticksToNextTx := by dsimp only [composeValveSet, compose]

@[simp] theorem composeValveSet_se_flag (pct : Byte) (s : State) :
    (composeValveSet pct s).se.flag = s.se.flag := by dsimp only [composeValveSet, compose]

@[simp] theorem composeValveSet_se_commandedPercent (pct : Byte) (s : State) :
    (composeValveSet pct s).se.commandedPercent = pct := by dsimp only [composeValveSet, compose]

@[simp] theorem composeValveSet_se_h (pct : Byte) (s : State) :
    (composeValveSet pct s).se.h = s.se.h := by dsimp only [composeValveSet, compose]

@[simp] theorem composeValveSet_se_txBuffer (pct : Byte) (s : State) :
    (composeValveSet pct s).se.txBuffer = overlay (encodeFrame s.se.hc1 s.se.hc2 s.cfg.opcValveSet (scale pct)) s.se.txBuffer := by
  dsimp only [composeValveSet, compose]

@[simp] theorem composeValveSet_ag (pct : Byte) (s : State) :
    (composeValveSet pct s).ag = s.ag := by dsimp only [composeValveSet, compose]

@[simp] theorem composeValveSet_io (pct : Byte) (s : State) :
    (composeValveSet pct s).io = s.io := by dsimp only [composeValveSet, compose]

@[simp] theorem composeValveSet_cfg (pct : Byte) (s : State) :
    (composeValveSet pct s).cfg = s.cfg := by dsimp only [composeValveSet, compose]

/-! ### `syncReset` -/

@[simp] theorem syncReset_se_hc1 (s : State) :
    (syncReset s).se.hc1 = s.se.hc1 := rfl

@[simp] theorem syncReset_se_hc2 (s : State) :
    (syncReset s).se.hc2 = s.se.hc2 := rfl

@[simp] theorem syncReset_se_phase (s : State) :
    (syncReset s).se.phase = .unsynced := rfl

@[simp] theorem syncReset_se_countdown (s : State) :
    (syncReset s).se.countdown = 0 := rfl

@[simp] theorem syncReset_se_ticksToFinal (s : State) :
    (syncReset s).se.ticksToFinal = 0 := rfl

@[simp] theorem syncReset_se_ticksToNextTx (s : State) :
    (syncReset s).se.ticksToNextTx = 0 := rfl

@[simp] theorem syncReset_se_flag (s : State) :
    (syncReset s).se.flag = false := rfl

@[simp] theorem syncReset_se_commandedPercent (s : State) :
    (syncReset s).se.commandedPercent = 0 := rfl

@[simp] theorem syncReset_se_h (s : State) :
    (syncReset s).se.h = s.se.h := rfl

@[simp] theorem syncReset_se_txBuffer (s : State) :
    (syncReset s).se.txBuffer = List.replicate frameBufSize sentinel := rfl

@[simp] theorem syncReset_ag (s : State) :
    (syncReset s).ag = s.ag := rfl

@[simp] theorem syncReset_io (s : State) :
    (syncReset s).io = s.io := rfl

@[simp] theorem syncReset_cfg (s : State) :
    (syncReset s).cfg = s.cfg := rfl

/-! ### `occupy` -/

@[simp] theorem occupy_se (i : Nat) (id : Half) (pct : Byte) (s : State) :
    (occupy i id pct s).se = s.se := rfl

@[simp] theorem occupy_ag_slots (i : Nat) (id : Half) (pct : Byte) (s : State) :
    (occupy i id pct s).ag.slots = s.ag.slots.set i { id := id, ticksUntilOff := liveTicks, percentOpen := pct } := rfl

@[simp] theorem occupy_ag_callForHeat (i : Nat) (id : Half) (pct : Byte) (s : State) :
    (occupy i id pct s).ag.callForHeat = s.ag.callForHeat := rfl

@[simp] theorem occupy_ag_ticksInCurrentState (i : Nat) (id : Half) (pct : Byte) (s : State) :
    (occupy i id pct s).ag.ticksInCurrentState = s.ag.ticksInCurrentState := rfl

@[simp] theorem occupy_ag_minIndividual (i : Nat) (id : Half) (pct : Byte) (s : State) :
    (occupy i id pct s).ag.minIndividual = s.ag.minIndividual := rfl

@[simp] theorem occupy_ag_minAggregate (i : Nat) (id : Half) (pct : Byte) (s : State) :
    (occupy i id pct s).ag.minAggregate = s.ag.minAggregate := rfl

@[simp] theorem occupy_io (i : Nat) (id : Half) (pct : Byte) (s : State) :
    (occupy i id pct s).io = s.io := rfl

@[simp] theorem occupy_cfg (i : Nat) (id : Half) (pct : Byte) (s : State) :
    (occupy i id pct s).cfg = s.cfg := rfl

end Sys2Proof.Machine
end

