-- ==== Sys2Proof/Laws/Ops.lean ====
section
/-!
SUPPORT. For each shared operation, one lemma that says once what it can do.
-/
namespace Sys2Proof.Machine

/-! ### Numbers -/

theorem clampByte_toNat (x : Byte) (lo hi : Nat) (h : hi ≤ 255) :
    (clampByte x lo hi).toNat = min (max x.toNat lo) hi := by
  simp only [clampByte, BitVec.toNat_ofNat]
  omega

/-- The clamped percent (R170). -/
@[simp] theorem preparePct_toNat (pct : Byte) : (preparePct pct).toNat = min pct.toNat 100 := by
  simp [preparePct, clampByte_toNat]

/-- The thresholds `Coerce` gives (R234). -/
theorem coerceIndividual_toNat (a : Byte) : (coerceIndividual a).toNat = min (max a.toNat 1) 100 := by
  simp [coerceIndividual, clampByte_toNat]

theorem coerceAggregate_toNat (a b : Byte) :
    (coerceAggregate a b).toNat = min (max b.toNat (coerceIndividual a).toNat) 100 := by
  simp [coerceAggregate, clampByte_toNat]

/-- The saturating counter (R233). -/
@[simp] theorem saturatingTick_toNat (t : Byte) : (saturatingTick t).toNat = min (t.toNat + 1) 255 := by
  simp only [saturatingTick, BitVec.toNat_ofNat]
  omega

theorem and_seven_toNat : ∀ v : Byte, (v &&& 7).toNat = v.toNat % 8 := by decide

/-- A due index counts from the call's boundary (R36, R37), as long as the boundary is a legal one. -/
theorem dueIndex_toNat (base : Byte) (se : SyncEngine) (h : se.h.toNat + 7 + base.toNat < 256) :
    (dueIndex base se).toNat = se.h.toNat + se.hc2.toNat % 8 + base.toNat := by
  simp only [dueIndex, BitVec.toNat_add, and_seven_toNat]
  omega

/-- A due index lowered at the start of a minor cycle (R171, R185): truncated subtraction. -/
theorem ageIndex_toNat (m : Nat) (t : Byte) : (ageIndex m t).toNat = t.toNat - m := by
  have := t.isLt
  unfold ageIndex
  split
  · simp only [BitVec.toNat_sub, BitVec.toNat_ofNat]; omega
  · simp; omega

/-! ### Composing and transmitting -/

@[simp] theorem overlay_length (frame buffer : List Byte) :
    (overlay frame buffer).length = max frame.length buffer.length := by
  simp only [overlay, List.length_append, List.length_drop]
  omega

/-- The meaningful bytes of a composed frame are what the buffer begins with. -/
theorem compose_take (op ext : Byte) (s : State) :
    (compose op ext s).se.txBuffer.take (composedLength op ext s) = frameBytes s.se.hc1 s.se.hc2 op ext := by
  simp [composedLength, encodeFrame, overlay]

/-- What one draw does (R54): the first supplied result if there is one, and nothing but the supply and the counter moves. -/
theorem drawSendOk_spec (s : State) :
    (∀ b rest, s.io.sendResults = b :: rest → (drawSendOk s).1 = b)
    ∧ (drawSendOk s).2 =
        { s with io.sendResults := s.io.sendResults.drop 1, io.drawCount := s.io.drawCount + 1 } := by
  unfold drawSendOk
  split <;> simp_all

/-- What the draws of `n` copies do (R54): `n` results, the supplied ones in their order, and nothing but the supply and the
counter moves. -/
theorem drawSends_spec (n : Nat) (s : State) :
    (drawSends n s).1.length = n
    ∧ (n ≤ s.io.sendResults.length → (drawSends n s).1 = s.io.sendResults.take n)
    ∧ (drawSends n s).2 =
        { s with io.sendResults := s.io.sendResults.drop n, io.drawCount := s.io.drawCount + n } := by
  induction n generalizing s with
  | zero => simp [drawSends]
  | succ n ih =>
    obtain ⟨hfst, hsnd⟩ := drawSendOk_spec s
    obtain ⟨hlen, htake, hst⟩ := ih (drawSendOk s).2
    refine ⟨by simp [drawSends, hlen], fun hle => ?_, ?_⟩
    · cases hres : s.io.sendResults with
      | nil => simp [hres] at hle
      | cons b rest =>
        rw [hsnd, hres] at htake
        simp only [hres, List.length_cons] at hle
        simp only [drawSends, hfst b rest hres, List.take_succ_cons, List.cons.injEq, true_and]
        rw [hsnd, hres]
        exact htake (by simpa using hle)
    · have hc : s.io.drawCount + 1 + n = s.io.drawCount + (n + 1) := by omega
      have hd : 1 + n = n + 1 := by omega
      show (drawSends n (drawSendOk s).2).2 = _
      rw [hst, hsnd]
      simp only [List.drop_drop, hc, hd]

/-- What a transmission does (R184): one event of the buffer's first `len` bytes, its draws taken, and it succeeded iff one copy
did. No register is written. -/
theorem transmit_spec (len : Nat) (copies : Copies) (s : State) :
    ∃ oks : List Bool, oks.length = copies.count
      ∧ (copies.count ≤ s.io.sendResults.length → oks = s.io.sendResults.take copies.count)
      ∧ ((transmit len copies s).1 = true ↔ true ∈ oks)
      ∧ (transmit len copies s).2 = { s with
          io.sendResults := s.io.sendResults.drop copies.count
          io.drawCount := s.io.drawCount + copies.count
          io.events := s.io.events ++ [{ frame := s.se.txBuffer.take len, copies := copies, sendOk := oks }] } := by
  obtain ⟨hlen, htake, hst⟩ := drawSends_spec copies.count s
  exact ⟨(drawSends copies.count s).1, hlen, htake, by simp [transmit], by simp [transmit, hst]⟩

/-- What composing and transmitting a frame does (R175, R177, R179, R184). -/
theorem sendFrame_spec (op ext : Byte) (copies : Copies) (s : State) :
    ∃ oks : List Bool, oks.length = copies.count
      ∧ (copies.count ≤ s.io.sendResults.length → oks = s.io.sendResults.take copies.count)
      ∧ ((sendFrame op ext copies s).1 = true ↔ true ∈ oks)
      ∧ (sendFrame op ext copies s).2 = { s with
          se.txBuffer := overlay (encodeFrame s.se.hc1 s.se.hc2 op ext) s.se.txBuffer
          io.sendResults := s.io.sendResults.drop copies.count
          io.drawCount := s.io.drawCount + copies.count
          io.events := s.io.events ++
            [{ frame := frameBytes s.se.hc1 s.se.hc2 op ext, copies := copies, sendOk := oks }] } := by
  obtain ⟨oks, h1, h2, h3, h4⟩ := transmit_spec (composedLength op ext s) copies (compose op ext s)
  refine ⟨oks, h1, h2, h3, ?_⟩
  rw [sendFrame, h4, compose_take]
  rfl

/-! ### The slot table -/

theorem findId_eq_some (slots : List Slot) (id : Half) (k : Nat) (h : findId slots id = some k) :
    ∃ x : Slot, slots[k]? = some x ∧ x.id = id
      ∧ ∀ (j : Nat) (y : Slot), j < k → slots[j]? = some y → y.id ≠ id := by
  obtain ⟨hlt, hk, hmin⟩ := List.findIdx?_eq_some_iff_getElem.mp h
  refine ⟨slots[k], by simp [hlt], by simpa using hk, fun j y hj hy => ?_⟩
  obtain ⟨hjl, rfl⟩ := List.getElem?_eq_some_iff.mp hy
  simpa using hmin j hj

theorem findId_eq_none (slots : List Slot) (id : Half) :
    findId slots id = none ↔ ∀ x ∈ slots, x.id ≠ id := by
  simp [findId]

theorem findEmpty_eq_none (slots : List Slot) :
    findEmpty slots = none ↔ ∀ x ∈ slots, x.occupied = true := by
  simp [findEmpty]

/-- The least slot of R224: it is in the list at its index, and no slot at another index comes before it; a tie goes to the
lower index. -/
theorem leastSlot_spec (slots : List Slot) (k : Nat) (x : Slot) (h : leastSlot slots = some (k, x)) :
    slots[k]? = some x
    ∧ (∀ (j : Nat) (y : Slot), slots[j]? = some y → evictBefore y x = false)
    ∧ (∀ (j : Nat) (y : Slot), j < k → slots[j]? = some y → evictBefore x y = true) := by
  induction slots generalizing k x with
  | nil => simp [leastSlot] at h
  | cons a rest ih =>
    have trans_lt : ∀ p q r : Slot, evictBefore p q = false → evictBefore q r = false → evictBefore p r = false := by
      intro p q r
      simp only [evictBefore, Bool.or_eq_false_iff, Bool.and_eq_false_imp, decide_eq_false_iff_not, beq_iff_eq]
      rintro ⟨h1, h2⟩ ⟨h3, h4⟩
      refine ⟨by omega, fun h => ?_⟩
      have e : p.ticksUntilOff.toInt = r.ticksUntilOff.toInt := by rw [h]
      have e1 : p.ticksUntilOff = q.ticksUntilOff := BitVec.eq_of_toInt_eq (by omega)
      have e2 : q.ticksUntilOff = r.ticksUntilOff := BitVec.eq_of_toInt_eq (by omega)
      have := h2 e1
      have := h4 e2
      omega
    have asym : ∀ p q : Slot, evictBefore p q = true → evictBefore q p = false := by
      intro p q
      simp only [evictBefore, Bool.or_eq_true, Bool.and_eq_true, decide_eq_true_eq, beq_iff_eq,
        Bool.or_eq_false_iff, Bool.and_eq_false_imp, decide_eq_false_iff_not]
      rintro (h1 | ⟨h1, h2⟩)
      · refine ⟨by omega, fun h => ?_⟩
        rw [h] at h1; omega
      · rw [h1]; exact ⟨by omega, fun _ => by omega⟩
    have irrefl : ∀ p : Slot, evictBefore p p = false := by
      intro p; simp [evictBefore]
    cases hl : leastSlot rest with
    | none =>
      have hnil : rest = [] := by
        cases rest with
        | nil => rfl
        | cons b t =>
          simp only [leastSlot] at hl
          cases h2 : leastSlot t with
          | none => simp [h2] at hl
          | some w => obtain ⟨j, y⟩ := w; simp only [h2] at hl; split at hl <;> simp at hl
      subst hnil
      simp only [leastSlot, Option.some.injEq, Prod.mk.injEq] at h
      obtain ⟨rfl, rfl⟩ := h
      refine ⟨rfl, fun j y hy => ?_, fun j y hj => by omega⟩
      cases j with
      | zero => simp at hy; rw [← hy]; exact irrefl _
      | succ j => simp at hy
    | some w =>
      obtain ⟨j0, y0⟩ := w
      obtain ⟨g1, g2, g3⟩ := ih j0 y0 hl
      simp only [leastSlot, hl] at h
      split at h
      · rename_i hb
        simp only [Option.some.injEq, Prod.mk.injEq] at h
        obtain ⟨rfl, rfl⟩ := h
        refine ⟨by simpa using g1, fun j y hy => ?_, fun j y hj hy => ?_⟩
        · cases j with
          | zero => simp at hy; rw [← hy]; exact asym _ _ hb
          | succ j => exact g2 j y (by simpa using hy)
        · cases j with
          | zero => simp at hy; rw [← hy]; exact hb
          | succ j => exact g3 j y (by omega) (by simpa using hy)
      · rename_i hb
        simp only [Option.some.injEq, Prod.mk.injEq] at h
        obtain ⟨rfl, rfl⟩ := h
        refine ⟨rfl, fun j y hy => ?_, fun j y hj => by omega⟩
        cases j with
        | zero => simp at hy; rw [← hy]; exact irrefl _
        | succ j => exact trans_lt _ _ _ (g2 j y (by simpa using hy)) (by simpa using hb)

/-- A table with a slot has a least one. -/
theorem leastSlot_of_cons (a : Slot) (rest : List Slot) : ∃ w, leastSlot (a :: rest) = some w := by
  simp only [leastSlot]
  cases leastSlot rest with
  | none => exact ⟨_, rfl⟩
  | some w => obtain ⟨j, y⟩ := w; simp only; split <;> exact ⟨_, rfl⟩

/-- What a tick does to one slot (R227): it stays, is freed, or counts down by exactly one. -/
theorem tickSlot_cases (x : Slot) :
    (x.occupied = false ∧ tickSlot x = x)
    ∨ (x.occupied = true ∧ x.ticksUntilOff.toInt = -128 ∧ tickSlot x = Slot.empty)
    ∨ (x.occupied = true ∧ x.ticksUntilOff.toInt ≠ -128
        ∧ (tickSlot x).ticksUntilOff.toInt = x.ticksUntilOff.toInt - 1
        ∧ tickSlot x = { x with ticksUntilOff := (tickSlot x).ticksUntilOff }) := by
  have key : ∀ t : Byte, t.toInt ≠ -128 → (t - 1).toInt = t.toInt - 1 := by decide
  unfold tickSlot
  by_cases h : x.occupied
  · by_cases h2 : x.ticksUntilOff.toInt = -128
    · simp [h, h2]
    · right; right
      simp only [h, h2, if_true, if_false, ne_eq, not_false_eq_true, true_and]
      exact ⟨key _ h2, trivial⟩
  · simp [h]

/-! ### The decision -/

/-- The cap of R228 changes nothing: the capped sum reaches the threshold iff the exact sum does. -/
theorem le_cumulativeOpen (ag : Aggregator) :
    ag.minAggregate.toNat ≤ cumulativeOpen ag ↔ ag.minAggregate.toNat ≤ liveSum ag.slots := by
  simp [cumulativeOpen]

/-- The two outcomes of the hysteresis (R233). -/
theorem applyHysteresis_cases (cfg : Config) (desired : Bool) (ag : Aggregator) :
    (desired ≠ ag.callForHeat ∧ cfg.minTicksInEitherState.toNat ≤ ag.ticksInCurrentState.toNat
      ∧ applyHysteresis cfg desired ag = { ag with callForHeat := desired, ticksInCurrentState := 0 })
    ∨ (¬ (desired ≠ ag.callForHeat ∧ cfg.minTicksInEitherState.toNat ≤ ag.ticksInCurrentState.toNat)
      ∧ applyHysteresis cfg desired ag =
          { ag with ticksInCurrentState := saturatingTick ag.ticksInCurrentState }) := by
  unfold applyHysteresis
  split
  · rename_i h; exact .inl ⟨h.1, h.2, rfl⟩
  · rename_i h; exact .inr ⟨h, rfl⟩

/-! ### The phase step -/

/-- What the end of a countdown step does (R175): the countdown falls by 2, and at 1 the engine awaits the final. -/
theorem countdownAdvance_cases (s : State) :
    (s.se.countdown - 2 = 1 ∧ countdownAdvance s =
      { s with se.countdown := 1, se.phase := .awaitingFinal, se.ticksToFinal := dueIndex finalBase s.se })
    ∨ (s.se.countdown - 2 ≠ 1 ∧ countdownAdvance s = { s with se.countdown := s.se.countdown - 2 }) := by
  unfold countdownAdvance
  by_cases h : s.se.countdown - 2 = 1
  · left; exact ⟨h, by simp only [h, if_true]⟩
  · right; exact ⟨h, by simp only [h, if_false]⟩

/-- The phase step by the phase it meets (R173). -/
theorem act_cases (pct : Byte) (dbl : Bool) (s : State) :
    (s.se.phase = .unsynced ∧ s.se.housePairValid = false ∧ act pct dbl s = s)
    ∨ (s.se.phase = .unsynced ∧ s.se.housePairValid = true
        ∧ act pct dbl s = countdownStep { s with se.phase := .countingDown, se.countdown := countdownStart })
    ∨ (s.se.phase = .countingDown ∧ act pct dbl s = countdownStep s)
    ∨ (s.se.phase = .awaitingFinal ∧ act pct dbl s = finalStep pct s)
    ∨ (s.se.phase = .locked ∧ act pct dbl s = steadyStep pct dbl s) := by
  cases hp : s.se.phase <;> simp only [act, actStart, hp]
  · by_cases hv : s.se.housePairValid = true
    · right; left; simp [startHandshake, hv]
    · left; simp [startHandshake, hv, hp]
  all_goals simp

end Sys2Proof.Machine
end

