-- ==== Sys2Proof/Laws/PerInstr.lean ====
section
/-!
SUPPORT. Facts of every instruction as syntax, one lemma per constructor.
-/
namespace Sys2Proof.Laws.EncodedLength

/-- What a well-formed instruction is written as has the length the spec gives it: the packet length of R91 for a request,
six protected bytes for a frame kind (R97). -/
def Statement (i : Instr) : Prop :=
  ∀ (cfg : Config) (hc1 hc2 : Byte), i.wellFormed = true →
    match Sys2Proof.encode cfg hc1 hc2 i with
    | .packet p => i.isRequest = true ∧ p.length = packetLength p
    | .frame b => i.isRequest = false ∧ b.length = 6

theorem encode (a b c d : Byte) : Statement (.encode a b c d) := fun _ _ _ _ => ⟨rfl, rfl⟩

theorem decode (bytes : List Byte) : Statement (.decode bytes) := by
  intro _ _ _ h
  have hl : bytes.length ≤ 255 := by simpa [Instr.wellFormed] using h
  refine ⟨rfl, ?_⟩
  show bytes.length + 1 + 1 = 2 + (BitVec.ofNat 8 bytes.length).toNat
  rw [BitVec.toNat_ofNat]
  omega

theorem syncFirst (p : Byte) (d : Bool) : Statement (.syncFirst p d) := fun _ _ _ _ => ⟨rfl, rfl⟩
theorem syncNext (p : Byte) (d : Bool) : Statement (.syncNext p d) := fun _ _ _ _ => ⟨rfl, rfl⟩
theorem syncReset : Statement .syncReset := fun _ _ _ _ => ⟨rfl, rfl⟩
theorem setHouseCode (a b : Byte) : Statement (.setHouseCode a b) := fun _ _ _ _ => ⟨rfl, rfl⟩
theorem isLocked : Statement .isLocked := fun _ _ _ _ => ⟨rfl, rfl⟩
theorem getCommandedPct : Statement .getCommandedPct := fun _ _ _ _ => ⟨rfl, rfl⟩
theorem getOpenFlag : Statement .getOpenFlag := fun _ _ _ _ => ⟨rfl, rfl⟩
theorem submitReport (id : Half) (p : Byte) : Statement (.submitReport id p) := fun _ _ _ _ => ⟨rfl, rfl⟩
theorem aggTick : Statement .aggTick := fun _ _ _ _ => ⟨rfl, rfl⟩
theorem setThresholds (a b : Byte) : Statement (.setThresholds a b) := fun _ _ _ _ => ⟨rfl, rfl⟩
theorem isCallingForHeat : Statement .isCallingForHeat := fun _ _ _ _ => ⟨rfl, rfl⟩
theorem valveSet (p : Byte) : Statement (.valveSet p) := fun _ _ _ _ => ⟨rfl, rfl⟩
theorem syncCountdown (c : Byte) : Statement (.syncCountdown c) := fun _ _ _ _ => ⟨rfl, rfl⟩
theorem syncFinal : Statement .syncFinal := fun _ _ _ _ => ⟨rfl, rfl⟩

end Sys2Proof.Laws.EncodedLength
end

