-- ==== Sys2Proof/Laws/Step.lean ====
section
/-!
SUPPORT. What a step and an execution can do, said once.
-/
namespace Sys2Proof.Machine

/-- The three things a step can do (R31, R75, R263). -/
theorem step_cases (s : State) :
    (s.io.requests = [] ∧ step s = .next s)
    ∨ (∃ (p : List Byte) (rest : List (List Byte)) (e : Illegal),
        s.io.requests = p :: rest ∧ decodePacket p = .error e
        ∧ step s = .next (raiseFault .illegalRequest (takeRequest rest s)))
    ∨ (∃ (p : List Byte) (rest : List (List Byte)) (i : Instr),
        s.io.requests = p :: rest ∧ decodePacket p = .ok i ∧ step s = exec i (takeRequest rest s)) := by
  unfold step
  split
  · rename_i h; exact .inl ⟨h, rfl⟩
  · rename_i p rest h
    cases hd : decodePacket p with
    | ok i => exact .inr (.inr ⟨p, rest, i, h, hd, rfl⟩)
    | error e => exact .inr (.inl ⟨p, rest, e, h, hd, rfl⟩)

/-- Executing a list and then another is executing the one and then the other. -/
theorem execAll_append {t : State} (is js : List Instr) (s : State) (h : execAll is s = .next t) :
    execAll (is ++ js) s = execAll js t := by
  induction is generalizing s with
  | nil => simp only [execAll] at h; cases h; rfl
  | cons i rest ih =>
    simp only [execAll, List.cons_append] at h ⊢
    cases he : exec i s with
    | next v => simp only [he] at h ⊢; exact ih v h
    | fault r => simp only [he] at h; cases h
    | refused r => simp only [he] at h; cases h

/-- The caller makes no call at a boundary it has given up. -/
theorem heedingCalls_silent (pct : Nat → Byte) (dbl stops : Nat → Bool) (b n : Nat) (gaveUp : Bool) (s : State)
    (h : b % s.cfg.boundaries ≠ 0 ∧ (gaveUp ∨ (askedForMore s = false ∧ stops b))) :
    heedingCalls pct dbl stops b (n + 1) gaveUp s = heedingCalls pct dbl stops (b + 1) n true s := by
  rw [heedingCalls, if_pos h]

/-- At any other boundary it makes that boundary's call, and goes on after it. -/
theorem heedingCalls_call {t : State} (pct : Nat → Byte) (dbl stops : Nat → Bool) (b n : Nat) (gaveUp : Bool) (s : State)
    (h : ¬ (b % s.cfg.boundaries ≠ 0 ∧ (gaveUp ∨ (askedForMore s = false ∧ stops b))))
    (he : exec (boundaryCall s.cfg.boundaries b pct dbl) s = .next t) :
    heedingCalls pct dbl stops b (n + 1) gaveUp s = heedingCalls pct dbl stops (b + 1) n false t := by
  rw [heedingCalls, if_neg h, he]

/-- A timing call always answers a next state: an overrun is a response too (R264, R268). -/
theorem exec_timing_next (s : State) (pct : Byte) (dbl : Bool) :
    (∃ t, exec (.syncFirst pct dbl) s = .next t) ∧ (∃ t, exec (.syncNext pct dbl) s = .next t) := by
  refine ⟨⟨_, rfl⟩, ?_⟩
  by_cases h : s.cfg.boundaries ≤ s.se.h.toNat + 1
  · exact ⟨_, by simp only [exec, execSyncNext, h, if_true]; rfl⟩
  · exact ⟨_, by simp only [exec, execSyncNext, h, if_false]; rfl⟩

/-- Every execution of SUBMIT_REPORT rejects it or writes one slot (R221). -/
theorem execSubmitReport_cases (id : Half) (pct : Byte) (s : State) :
    ((id = emptyId ∨ 100 < pct.toNat ∨ reportSlot s.ag id pct = none)
      ∧ exec (.submitReport id pct) s = .next (respondOk [0] s))
    ∨ (id ≠ emptyId ∧ pct.toNat ≤ 100 ∧ ∃ k, reportSlot s.ag id pct = some k
        ∧ exec (.submitReport id pct) s = .next (respondOk [1] (occupy k id pct s))) := by
  simp only [exec, execSubmitReport]
  by_cases h : id = emptyId ∨ 100 < pct.toNat
  · left; exact ⟨h.elim .inl (fun h => .inr (.inl h)), by simp only [h, if_true]⟩
  · simp only [h, if_false]
    cases hr : reportSlot s.ag id pct with
    | none => left; exact ⟨.inr (.inr rfl), rfl⟩
    | some k =>
      right
      exact ⟨fun e => h (.inl e), by omega, k, rfl, rfl⟩

end Sys2Proof.Machine
end

