-- ==== Sys2Proof/Tests/Slice0.lean ====
section
/-!
SUPPORT. The model's own tests. Expected values are taken from 95_test_vectors.md (the vector is named in the comment), from the
worked examples of the rules, or written out by hand from the encoding tables. The witnesses at the end show, for each
statement with hypotheses, a state and operands that meet them.
-/
namespace Sys2Proof.Machine.Tests

/-! ### Helpers -/

/-- The configuration of 95_test_vectors.md section 0. -/
def cfgV : Config where
  minorCycle := .twoSeconds
  opcValveSet := 0x26
  opcSyncCountdown := 0x2C
  opcSyncFinal := 0x20
  minMeaningfulOpenPct := 10
  minTicksInEitherState := 2
  resetMinIndividual := 50
  resetMinAggregate := 50

/-- The same with a minor cycle of one second, `M = 2`. -/
def cfgV2 : Config := { cfgV with minorCycle := .oneSecond }

/-- Reset, with a house-code pair and both `send` results true. -/
def base (cfg : Config) (hc1 hc2 : Byte) : State :=
  { State.resetWith cfg with se.hc1 := hc1, se.hc2 := hc2, io.sendResults := [true, true] }

/-- `hc = (13, 73)` in CountingDown at boundary `h`. -/
def counting (countdown h : Byte) : State :=
  { base cfgV 13 73 with se.phase := .countingDown, se.countdown := countdown, se.h := h }

/-- A buffer that begins like a composed frame. -/
def someBuffer : List Byte := 0xCC :: List.replicate 45 0xFF

/-- `hc = (13, 73)` in AwaitingFinal at boundary `h`. -/
def awaiting (due h : Byte) : State :=
  { base cfgV 13 73 with
    se.phase := .awaitingFinal, se.countdown := 1, se.ticksToFinal := due, se.h := h, se.txBuffer := someBuffer }

/-- `hc = (13, 73)` in Locked at boundary `h`. -/
def lockedAt (due h : Byte) : State :=
  { base cfgV 13 73 with
    se.phase := .locked, se.countdown := 1, se.ticksToNextTx := due, se.h := h, se.txBuffer := someBuffer }

/-- A state with these slots first and the others empty. -/
def table (slots : List Slot) : State :=
  { State.resetWith cfgV with ag.slots := slots ++ List.replicate (8 - slots.length) Slot.empty }

/-- A full table of ids 100 to 107 with `ticksUntilOff` 52 to 59 (vector A3). -/
def fullTable : State :=
  table ((List.range 8).map (fun k =>
    { id := BitVec.ofNat 16 (100 + k), ticksUntilOff := BitVec.ofNat 8 (52 + k), percentOpen := 90 }))

/-- A state with one packet at the port. -/
def withPacket (s : State) (p : List Byte) : State := { s with io.requests := [p] }

/-- What a field of the next state is. -/
def after {α : Type} (o : Host.Outcome State Fault Refusal) (f : State → α) : Option α :=
  match o with
  | .next t => some (f t)
  | .fault _ => none
  | .refused _ => none

/-- The responses, and what was sent. -/
def answered (s : State) : List (List Byte) := s.io.responses
def sent (s : State) : List (List Byte × Copies) := s.io.events.map TxEvent.sent

/-- F_ZERO of 95_test_vectors.md. -/
def frameZero : List Byte :=
  [0xCC, 0xCC, 0xCC, 0xCC, 0xCC, 0xCC, 0xE3, 0x33, 0x33, 0x33, 0x33, 0x33, 0x33, 0x33, 0x33, 0x33, 0x33,
      0x33, 0x33, 0x33, 0x33, 0x33, 0x33, 0x33, 0x33, 0x33, 0x33, 0x33, 0x33, 0x33, 0x33, 0x38, 0xE3, 0x33,
      0x33, 0x00]

/-- F_MAX of 95_test_vectors.md. -/
def frameMax : List Byte :=
  [0xCC, 0xCC, 0xCC, 0xCC, 0xCC, 0xCC, 0xE3, 0x38, 0xE3, 0x8E, 0x38, 0xE3, 0x8E, 0x33, 0x8E, 0x38, 0xE3,
      0x8E, 0x38, 0xE3, 0x33, 0x33, 0x33, 0x33, 0x38, 0xE3, 0x8C, 0xE3, 0x8E, 0x38, 0xE3, 0x8E, 0x38, 0xE3,
      0x8E, 0x38, 0xCE, 0x38, 0xE3, 0x8E, 0x33, 0x8E, 0x38, 0xE3, 0x30]

/-- F_VS50 of 95_test_vectors.md. -/
def frameVs50 : List Byte :=
  [0xCC, 0xCC, 0xCC, 0xCC, 0xCC, 0xCC, 0xE3, 0x33, 0x33, 0x8E, 0x33, 0x8E, 0x33, 0x8C, 0xCE, 0x33, 0x38,
      0xE3, 0x33, 0x33, 0x33, 0x33, 0x33, 0x38, 0xCC, 0xE3, 0x8C, 0xE3, 0x8C, 0xCC, 0xCC, 0xCC, 0xE3, 0x33,
      0x33, 0x8C, 0xCC, 0xE3, 0x30]

/-- F_VS40 of 95_test_vectors.md. -/
def frameVs40 : List Byte :=
  [0xCC, 0xCC, 0xCC, 0xCC, 0xCC, 0xCC, 0xE3, 0x33, 0x33, 0x8E, 0x33, 0x8E, 0x33, 0x8C, 0xCE, 0x33, 0x38,
      0xE3, 0x33, 0x33, 0x33, 0x33, 0x33, 0x38, 0xCC, 0xE3, 0x8C, 0xE3, 0x38, 0xE3, 0x33, 0x8E, 0x33, 0x38,
      0xE3, 0x8C, 0xE3, 0x8E, 0x33, 0x33, 0x00]

/-- F_CD241 of 95_test_vectors.md. -/
def frameCd241 : List Byte :=
  [0xCC, 0xCC, 0xCC, 0xCC, 0xCC, 0xCC, 0xE3, 0x33, 0x33, 0x8E, 0x33, 0x8E, 0x33, 0x8C, 0xCE, 0x33, 0x38,
      0xE3, 0x33, 0x33, 0x33, 0x33, 0x33, 0x38, 0xCE, 0x38, 0xCC, 0xE3, 0x8E, 0x38, 0xE3, 0x33, 0x38, 0xE3,
      0x38, 0xE3, 0x8E, 0x38, 0xE3, 0x8E, 0x33, 0x00]

/-- F_CD3 of 95_test_vectors.md. -/
def frameCd3 : List Byte :=
  [0xCC, 0xCC, 0xCC, 0xCC, 0xCC, 0xCC, 0xE3, 0x33, 0x33, 0x8E, 0x33, 0x8E, 0x33, 0x8C, 0xCE, 0x33, 0x38,
      0xE3, 0x33, 0x33, 0x33, 0x33, 0x33, 0x38, 0xCE, 0x38, 0xCC, 0xE3, 0x33, 0x33, 0x33, 0x8E, 0x33, 0x8C,
      0xCE, 0x33, 0x33, 0x8E, 0x33, 0x00]

/-- F_FIN of 95_test_vectors.md. -/
def frameFin : List Byte :=
  [0xCC, 0xCC, 0xCC, 0xCC, 0xCC, 0xCC, 0xE3, 0x33, 0x33, 0x8E, 0x33, 0x8E, 0x33, 0x8C, 0xCE, 0x33, 0x38,
      0xE3, 0x33, 0x33, 0x33, 0x33, 0x33, 0x38, 0xCC, 0xCC, 0xCE, 0x33, 0x33, 0x33, 0x33, 0x33, 0x8C, 0xCC,
      0xCC, 0xE3, 0x33, 0x30]

/-- F_FIN60 of 95_test_vectors.md. -/
def frameFin60 : List Byte :=
  [0xCC, 0xCC, 0xCC, 0xCC, 0xCC, 0xCC, 0xE3, 0x33, 0x33, 0x8E, 0x33, 0x8E, 0x33, 0x8C, 0xCE, 0x33, 0x38,
      0xE3, 0x33, 0x33, 0x33, 0x33, 0x33, 0x38, 0xCC, 0xE3, 0x8C, 0xE3, 0x8C, 0xCE, 0x38, 0xCC, 0xE3, 0x33,
      0x38, 0xCC, 0xCC, 0xE3, 0x33, 0x00]

/-! ### WellFormed: each check refuses an ill-formed term -/

theorem test_wellFormed_decode_too_long : (Instr.decode (List.replicate 256 0)).wellFormed = false := by
  decide +kernel
theorem test_wellFormed_decode_longest : (Instr.decode (List.replicate 255 0)).wellFormed = true := by
  decide +kernel
theorem test_wellFormed_valveSet_over_100 : (Instr.valveSet 101).wellFormed = false := by decide
theorem test_wellFormed_countdown_even : (Instr.syncCountdown 240).wellFormed = false := by decide
theorem test_wellFormed_countdown_one : (Instr.syncCountdown 1).wellFormed = false := by decide
theorem test_wellFormed_countdown_over_241 : (Instr.syncCountdown 243).wellFormed = false := by decide

/-! ### Decode: a word of every constructor, written out from R91 and R97 -/

theorem test_decode_encode : decodePacket [0x01, 0x0D, 0x49, 0x26, 0x80] = .ok (.encode 13 73 0x26 128) := rfl
theorem test_decode_decode : decodePacket [0x02, 0x02, 0xCC, 0xD0] = .ok (.decode [0xCC, 0xD0]) := rfl
theorem test_decode_syncFirst : decodePacket [0x10, 0x32, 0x00] = .ok (.syncFirst 50 false) := rfl
theorem test_decode_syncNext_double : decodePacket [0x11, 0x28, 0x01] = .ok (.syncNext 40 true) := rfl
theorem test_decode_syncReset : decodePacket [0x12] = .ok (.syncReset) := rfl
theorem test_decode_setHouseCode : decodePacket [0x13, 0x0D, 0x4A] = .ok (.setHouseCode 13 74) := rfl
theorem test_decode_isLocked : decodePacket [0x14] = .ok (.isLocked) := rfl
theorem test_decode_getCommandedPct : decodePacket [0x15] = .ok (.getCommandedPct) := rfl
theorem test_decode_getOpenFlag : decodePacket [0x16] = .ok (.getOpenFlag) := rfl
theorem test_decode_submitReport : decodePacket [0x20, 0x01, 0x2C, 0x46] = .ok (.submitReport 300 70) := rfl
theorem test_decode_aggTick : decodePacket [0x21] = .ok (.aggTick) := rfl
theorem test_decode_setThresholds : decodePacket [0x22, 0x96, 0x14] = .ok (.setThresholds 150 20) := rfl
theorem test_decode_isCallingForHeat : decodePacket [0x23] = .ok (.isCallingForHeat) := rfl

/-- R151's example: checksum 0x08. -/
theorem test_decode_valveSet :
    decode cfgV (.frame [0x0D, 0x49, 0x00, 0x26, 0x80, 0x08]) = .ok (.valveSet 50) := by decide
/-- R152's example: checksum 0x7F. -/
theorem test_decode_syncCountdown :
    decode cfgV (.frame [0x0D, 0x49, 0x00, 0x2C, 0xF1, 0x7F]) = .ok (.syncCountdown 241) := rfl
/-- R153's example: checksum 0x82. -/
theorem test_decode_syncFinal : decode cfgV (.frame [0x0D, 0x49, 0x00, 0x20, 0x00, 0x82]) = .ok .syncFinal := rfl

/-! The illegal packets of program P6, the empty packet, and frames that are none. -/

theorem test_decode_unknown_op : decodePacket [0x03] = .error .unknownOp := rfl
theorem test_decode_reserved_flags : decodePacket [0x10, 0x32, 0x02] = .error .reservedFlags := rfl
theorem test_decode_extra_byte : decodePacket [0x21, 0x00] = .error .wrongLength := rfl
theorem test_decode_wrong_L : decodePacket [0x02, 0x02, 0xCC] = .error .wrongLength := rfl
theorem test_decode_empty : decodePacket [] = .error .wrongLength := rfl
theorem test_decode_frame_checksum :
    decode cfgV (.frame [0x0D, 0x49, 0x00, 0x20, 0x00, 0x83]) = .error .wrongChecksum := rfl
theorem test_decode_frame_kind :
    decode cfgV (.frame [0x0D, 0x49, 0x00, 0x21, 0x00, 0x83]) = .error .unknownKind := rfl

/-! Rows of the opcode table. -/

theorem test_table_encode : decodeTableWord 8 0x01 = some (.encode 0 0 0 0) := rfl
theorem test_table_submitReport : decodeTableWord 8 0x20 = some (.submitReport 0 0) := rfl
theorem test_table_valveSet : decodeTableWord 8 0x26 = some (.valveSet 0) := by decide
theorem test_table_two_bytes : decodeTableWord 24 0x012810 = some (.syncFirst 40 true) := rfl

/-! ### The FrameCodec -/

/-- V1. -/
theorem test_encode_zero :
    after (exec (.encode 0 0 0 0) (State.resetWith cfgV)) answered = some [0x00 :: 0x24 :: (frameZero ++ [0xFF])] := by
  decide +kernel
/-- V3, a longest frame. -/
theorem test_encode_longest :
    after (exec (.encode 0x7F 0x7F 0xEF 0xFE) (State.resetWith cfgV)) answered =
      some [0x00 :: 0x2D :: (frameMax ++ [0xFF])] := by decide +kernel
/-- D14: the sentinel after the frame is not read. -/
theorem test_decode_frame :
    after (exec (.decode (frameVs50 ++ [0xFF])) (State.resetWith cfgV)) answered =
      some [[0x00, 0x0D, 0x49, 0x26, 0x80]] := by decide +kernel
/-- D12: byte 20 is 0x23 instead of 0x33. -/
theorem test_decode_flipped :
    after (exec (.decode (frameVs50.set 20 0x23)) (State.resetWith cfgV)) answered = some [[0x02]] := by decide +kernel

/-! The other error codes: D4, D3, D9 and D10 (D7 is the statement on inverted bits). -/

theorem test_decode_error_truncated : decodeFrame [0xCC] = .error .truncatedStream := rfl
theorem test_decode_error_symbol_pair : decodeFrame [0xD0] = .error .badSymbolPair := rfl
theorem test_decode_error_checksum :
    decodeFrame (frameVs50.take 35 ++ [0x8C, 0xCE, 0x33, 0x30]) = .error .checksumMismatch := by decide +kernel
theorem test_decode_error_trailer :
    decodeFrame (frameVs50.take 38 ++ [0x8C]) = .error .missingTrailer := by decide +kernel

/-! ### The frame kinds -/

theorem test_valveSet_composes :
    after (exec (.valveSet 50) (base cfgV 13 73)) (fun t => (t.se.txBuffer.take 40, t.se.commandedPercent)) =
      some (frameVs50 ++ [0xFF], 50) := by decide +kernel
theorem test_syncCountdown_composes :
    after (exec (.syncCountdown 241) (base cfgV 13 73)) (fun t => t.se.txBuffer.take 43) =
      some (frameCd241 ++ [0xFF]) := by decide +kernel
theorem test_syncFinal_composes :
    after (exec .syncFinal (base cfgV 13 73)) (fun t => t.se.txBuffer.take 39) = some (frameFin ++ [0xFF]) := by
  decide +kernel

/-! ### The SyncEngine -/

/-- S10. -/
theorem test_syncFirst_starts :
    after (exec (.syncFirst 50 false) (base cfgV 13 73))
        (fun t => ((t.se.phase, t.se.countdown), sent t, answered t)) =
      some ((.countingDown, 239), [(frameCd241, .two)], [[0x00, 0x01]]) := by decide +kernel
/-- S20: a late event fires at the start of the cycle. -/
theorem test_syncFirst_late :
    after (exec (.syncFirst 40 false) (lockedAt 2 1))
        (fun t => (sent t, t.se.ticksToNextTx, t.se.h, answered t)) =
      some ([(frameVs40, .one)], 231, 0, [[0x00, 0x00]]) := by decide +kernel
/-- S13: the last countdown frame. -/
theorem test_syncNext_last_countdown :
    after (exec (.syncNext 60 false) (counting 3 1))
        (fun t => ((t.se.phase, t.se.countdown, t.se.ticksToFinal), sent t)) =
      some ((.awaitingFinal, 1, 11), [(frameCd3, .two)]) := by decide +kernel
/-- S15: the sync-final; the valve-set is composed and not sent. -/
theorem test_syncNext_final :
    after (exec (.syncNext 60 false) (awaiting 3 2))
        (fun t => ((t.se.phase, t.se.ticksToNextTx, t.se.commandedPercent), sent t, t.se.txBuffer.take 41)) =
      some ((.locked, 234, 60), [(frameFin, .two)], frameFin60 ++ [0xFF]) := by decide +kernel
/-- S17: a double steady send. -/
theorem test_steady_double :
    after (exec (.syncNext 40 true) (lockedAt 2 1)) (fun t => (sent t, t.se.flag, t.se.ticksToNextTx)) =
      some ([(frameVs40, .two)], true, 233) := by decide +kernel
/-- S18: the send failed, so the flag keeps its value. -/
theorem test_steady_failed :
    after (exec (.syncNext 40 false) { lockedAt 2 1 with io.sendResults := [false] })
        (fun t => (t.se.flag, t.se.commandedPercent, t.se.ticksToNextTx)) = some (false, 40, 233) := by decide +kernel
/-- S21. -/
theorem test_syncNext_overrun : after (exec (.syncNext 50 false) (counting 5 3)) answered = some [[0x81]] := by decide +kernel
/-- S25, `M = 2`. -/
theorem test_syncFirst_short_cycle :
    after (exec (.syncFirst 40 false) { lockedAt 3 1 with cfg := cfgV2 })
        (fun t => (t.se.ticksToNextTx, answered t)) = some (1, [[0x00, 0x01]]) := by decide +kernel
/-- The example of R189. -/
theorem test_syncReset : after (exec .syncReset (lockedAt 9 2)) (fun t => (t.se.phase, t.se.h, t.se.hc2)) =
    some (.unsynced, 2, 73) := by decide
/-- S23. -/
theorem test_setHouseCode_same : after (exec (.setHouseCode 13 73) (lockedAt 9 2)) (fun t => t.se) =
    some (lockedAt 9 2).se := by decide
/-- S24. -/
theorem test_setHouseCode_changed :
    after (exec (.setHouseCode 13 74) (lockedAt 9 2)) (fun t => (t.se.phase, t.se.hc2, t.se.ticksToNextTx, t.se.h)) =
      some (.unsynced, 74, 0, 2) := by decide
theorem test_isLocked : after (exec .isLocked (lockedAt 9 2)) answered = some [[0x00, 0x01]] := by decide
theorem test_isLocked_awaiting : after (exec .isLocked (awaiting 9 2)) answered = some [[0x00, 0x00]] := by decide
theorem test_getCommandedPct :
    after (exec .getCommandedPct { lockedAt 9 2 with se.commandedPercent := 40 }) answered = some [[0x00, 0x28]] := by
  decide
theorem test_getOpenFlag :
    after (exec .getOpenFlag { lockedAt 9 2 with se.flag := true }) answered = some [[0x00, 0x01]] := by decide

/-! ### The BoilerAggregator -/

/-- A3: slot 0 has the lowest `ticksUntilOff`. -/
theorem test_submitReport_evicts :
    after (exec (.submitReport 200 60) fullTable) (fun t => (t.ag.slots.head?, answered t)) =
      some (some { id := 200, ticksUntilOff := 60, percentOpen := 60 }, [[0x00, 0x01]]) := by decide +kernel
/-- A3: the table is full and 40 < 50. -/
theorem test_submitReport_rejects :
    after (exec (.submitReport 201 40) fullTable) (fun t => (t.ag, answered t)) =
      some (fullTable.ag, [[0x00, 0x00]]) := by decide +kernel
/-- A5: the tick at -128 frees the slot. -/
theorem test_aggTick_frees :
    after (exec .aggTick (table [{ id := 5, ticksUntilOff := 0x80, percentOpen := 80 }])) (fun t => t.ag.slots) =
      some (table []).ag.slots := by decide +kernel
/-- P5, the third tick: the demand is accepted when the hold time is over. -/
theorem test_aggTick_accepts :
    after (exec .aggTick
        { table [{ id := 1, ticksUntilOff := 58, percentOpen := 80 }] with ag.ticksInCurrentState := 2 })
        (fun t => (t.ag.callForHeat, t.ag.ticksInCurrentState)) = some (true, 0) := by decide +kernel
/-- A2: the sum is enough, no single report is. -/
theorem test_aggTick_individual :
    after (exec .aggTick
        { table [{ id := 1, ticksUntilOff := 60, percentOpen := 30 }, { id := 2, ticksUntilOff := 60, percentOpen := 30 }]
          with ag.ticksInCurrentState := 2 })
        (fun t => t.ag.callForHeat) = some false := by decide +kernel
/-- A6. -/
theorem test_setThresholds :
    after (exec (.setThresholds 150 20) (table [])) (fun t => (t.ag.minIndividual, t.ag.minAggregate)) =
      some (100, 100) := by decide
theorem test_isCallingForHeat :
    after (exec .isCallingForHeat { table [] with ag.callForHeat := true }) answered = some [[0x00, 0x01]] := by decide

/-! ### Steps -/

/-- P6: an illegal packet. -/
theorem test_step_illegal : after (step (withPacket (table []) [0x21, 0x00])) answered = some [[0x80]] := by decide
/-- The step after `withFetchWord` serves that packet. -/
theorem test_step_fetchWord : after (step ((table []).withFetchWord 8 0x20)) answered = some [[0x00, 0x01]] := by decide
/-- From the power-on reset itself, whose OPEN parameters are unknown. -/
theorem test_step_from_reset :
    after (step (State.reset.withFetchWord 8 0x21)) (fun t => (answered t, t.ag.callForHeat)) =
      some ([[0x00]], false) := by decide

/-! ### Witnesses: each statement's hypotheses are met by a concrete state, each clause at a boundary value -/

theorem witness_cfgV_legal : cfgV.Legal := by decide

theorem witness_ResetSatisfiesTheInvariant : cfgV2.Legal := by decide

theorem inv_counting : (counting 3 3).Inv := ⟨by decide +kernel, by decide +kernel, by decide +kernel⟩
theorem inv_awaiting : (awaiting 4 3).Inv := ⟨by decide +kernel, by decide +kernel, by decide +kernel⟩
theorem inv_locked : (lockedAt 240 3).Inv := ⟨by decide +kernel, by decide +kernel, by decide +kernel⟩
theorem inv_fullTable : fullTable.Inv := ⟨by decide +kernel, by decide +kernel, by decide +kernel⟩

theorem witness_EveryStepKeepsTheInvariant :
    (withPacket (lockedAt 240 3) [0x10, 0x28, 0x00]).Inv
      ∧ ∃ t, step (withPacket (lockedAt 240 3) [0x10, 0x28, 0x00]) = .next t :=
  ⟨⟨by decide +kernel, by decide +kernel, by decide +kernel⟩, _, rfl⟩

theorem witness_ReachableStatesSatisfyTheSpecInvariants : Reachable (State.resetWith cfgV) :=
  .reset cfgV witness_cfgV_legal

/-- A reachable state that is no longer the reset state: a pair is stored. -/
theorem witness_Reachable_step : ∃ t, Reachable t ∧ t.se.hc2 = 73 :=
  ⟨_, .step _ _ (.arrive _ [[0x13, 0x0D, 0x49]] [] (.reset cfgV witness_cfgV_legal)) rfl, rfl⟩

theorem witness_DecodingAnEncodedInstructionGivesItBack :
    cfgV.Legal ∧ (Instr.valveSet 100).wellFormed = true ∧ (Instr.syncCountdown 3).wellFormed = true
      ∧ (Instr.syncCountdown 241).wellFormed = true := by decide +kernel

theorem witness_illegal_packet (p : List Byte) (h : p = [] ∨ p = [0x03] ∨ p = [0x21, 0x00] ∨ p = [0x02, 0x02, 0xCC]
    ∨ p = [0x10, 0x32, 0x02]) : ¬ PacketLegal p := by
  rcases h with rfl | rfl | rfl | rfl | rfl <;> simp [PacketLegal]

theorem witness_IllegalPacketsAreRefusedWithoutAChange :
    (withPacket fullTable [0x21, 0x00]).io.requests = [0x21, 0x00] :: [] ∧ ¬ PacketLegal [0x21, 0x00] :=
  ⟨rfl, witness_illegal_packet _ (by simp)⟩

theorem witness_legal_packets :
    PacketLegal [0x01, 0, 0, 0, 0] ∧ PacketLegal [0x02, 0x00] ∧ PacketLegal [0x11, 0x28, 0x01]
      ∧ PacketLegal [0x22, 0x32, 0x32] ∧ PacketLegal [0x20, 0xFF, 0xFF, 0x1E] ∧ PacketLegal [0x23] := by
  simp [PacketLegal]

theorem witness_AnInvertedLogicalBitGivesParityMismatch : (5 : Nat) < 6 ∧ (8 : Nat) < 9 := by decide

/-- The last symbol inside, and the first and the last outside, of the frame of the all-zero record. -/
theorem witness_AnInvertedSymbolNeverGivesAWrongRecord :
    277 < (frameSymbols 0 0 0 0).length - 4 ∧ (frameSymbols 0 0 0 0).length - 4 ≤ 278
      ∧ 287 < 8 * (frameBytes 0 0 0 0).length := by decide +kernel

theorem witness_DecodingReadsNothingAfterItsEnd :
    decodeFrame frameVs50 = .ok { hc1 := 13, hc2 := 73, opcode := 0x26, ext := 128 }
      ∧ decodeFrame [0xD0] = .error .badSymbolPair := by decide +kernel

theorem witness_DecodeAnswersTheRecordOrTheErrorCode : (0xBF : Byte).toNat < 0xC0 := by decide

theorem witness_FrameKindsLoadTheirFrame : (100 : Byte).toNat ≤ 100 := by decide

theorem witness_AnInvalidPairKeepsTheEngineUnsynced :
    TimingCall (base cfgV 100 5) (.syncFirst 50 false) 50 false 0 4 4
      ∧ TimingCall (base cfgV2 99 100) (.syncNext 50 false) 50 false 1 0 1
      ∧ (base cfgV 100 5).se.phase = .unsynced
      ∧ ¬ ((base cfgV 100 5).se.hc1.toNat ≤ 99 ∧ (base cfgV 100 5).se.hc2.toNat ≤ 99)
      ∧ ¬ ((base cfgV2 99 100).se.hc1.toNat ≤ 99 ∧ (base cfgV2 99 100).se.hc2.toNat ≤ 99) :=
  ⟨.inl ⟨rfl, rfl, rfl, rfl⟩, .inr ⟨rfl, rfl, by decide, rfl, rfl⟩, rfl, by decide, by decide⟩

/-- Boundary 0 by SYNC_FIRST (even) and boundary 1 by SYNC_NEXT (odd), at the largest valid pair. -/
theorem witness_ATimingCallStartsTheHandshake :
    TimingCall (base cfgV 99 99) (.syncFirst 50 false) 50 false 0 4 4
      ∧ TimingCall (base cfgV 99 99) (.syncNext 50 false) 50 false 1 0 1
      ∧ (base cfgV 99 99).se.phase = .unsynced
      ∧ (base cfgV 99 99).se.hc1.toNat ≤ 99 ∧ (base cfgV 99 99).se.hc2.toNat ≤ 99 :=
  ⟨.inl ⟨rfl, rfl, rfl, rfl⟩, .inr ⟨rfl, rfl, by decide, rfl, rfl⟩, rfl, by decide, by decide⟩

/-- An odd countdown that is 3 and one that is not, an even one, at even boundaries; and an odd boundary. -/
theorem witness_TheCountdownStepSendsAndCountsDown :
    TimingCall (counting 3 3) (.syncFirst 50 false) 50 false 0 4 1
      ∧ TimingCall (counting 241 1) (.syncNext 50 false) 50 false 2 0 1
      ∧ TimingCall (counting 240 1) (.syncNext 50 false) 50 false 2 0 1
      ∧ TimingCall (counting 241 2) (.syncNext 50 false) 50 false 3 0 1
      ∧ (counting 3 3).se.phase = .countingDown :=
  ⟨.inl ⟨rfl, rfl, rfl, rfl⟩, .inr ⟨rfl, rfl, by decide, rfl, rfl⟩, .inr ⟨rfl, rfl, by decide, rfl, rfl⟩,
    .inr ⟨rfl, rfl, by decide, rfl, rfl⟩, rfl⟩

/-- On time by either call, and late. -/
theorem witness_TheSyncFinalLocksTheEngine :
    (TimingCall (awaiting 4 3) (.syncFirst 60 false) 60 false 0 4 1 ∧ (awaiting 4 3).se.ticksToFinal.toNat - 4 = 0)
      ∧ (TimingCall (awaiting 3 2) (.syncNext 60 false) 60 false 3 0 1
        ∧ (awaiting 3 2).se.ticksToFinal.toNat - 0 = 3)
      ∧ (awaiting 3 2).se.phase = .awaitingFinal :=
  ⟨⟨.inl ⟨rfl, rfl, rfl, rfl⟩, by decide⟩, ⟨.inr ⟨rfl, rfl, by decide, rfl, rfl⟩, by decide⟩, rfl⟩

/-- On time, late, and in double transmission. -/
theorem witness_TheSteadySendCarriesTheCallsPercent :
    (TimingCall (lockedAt 2 1) (.syncFirst 255 false) 255 false 0 4 3
        ∧ (lockedAt 2 1).se.ticksToNextTx.toNat - 4 = 0)
      ∧ (TimingCall (lockedAt 2 1) (.syncNext 40 true) 40 true 2 0 1
        ∧ (lockedAt 2 1).se.ticksToNextTx.toNat - 0 = 2)
      ∧ (lockedAt 2 1).se.phase = .locked :=
  ⟨⟨.inl ⟨rfl, rfl, rfl, rfl⟩, by decide⟩, ⟨.inr ⟨rfl, rfl, by decide, rfl, rfl⟩, by decide⟩, rfl⟩

theorem witness_ACallBeforeTheDueBoundarySendsNothing :
    TimingCall (awaiting 5 3) (.syncFirst 60 false) 60 false 0 4 1 ∧ (awaiting 5 3).se.ticksToFinal.toNat - 4 ≠ 0
      ∧ TimingCall (lockedAt 3 1) (.syncNext 60 false) 60 false 2 0 1
      ∧ (lockedAt 3 1).se.ticksToNextTx.toNat - 0 ≠ 2 :=
  ⟨.inl ⟨rfl, rfl, rfl, rfl⟩, by decide, .inr ⟨rfl, rfl, by decide, rfl, rfl⟩, by decide⟩

/-- One boundary to go and one passes (it fires); two to go and one passes (it does not). -/
theorem witness_HalfSecondsUntilTheEventFallWithTime :
    TimingCall (awaiting 4 3) (.syncFirst 60 false) 60 false 0 4 1 ∧ (awaiting 4 3).se.Inv cfgV
      ∧ (awaiting 4 3).se.ticksToFinal.toNat - (awaiting 4 3).se.h.toNat ≤ 1
      ∧ TimingCall (lockedAt 3 1) (.syncNext 60 false) 60 false 2 0 1 ∧ (lockedAt 3 1).se.Inv cfgV
      ∧ 1 < (lockedAt 3 1).se.ticksToNextTx.toNat - (lockedAt 3 1).se.h.toNat :=
  ⟨.inl ⟨rfl, rfl, rfl, rfl⟩, by decide, by decide, .inr ⟨rfl, rfl, by decide, rfl, rfl⟩, by decide, by decide⟩

theorem witness_NeedMoreSaysThatALaterBoundaryActs :
    TimingCall (lockedAt 6 2) (.syncFirst 40 false) 40 false 0 4 2 ∧ (lockedAt 6 2).se.Inv cfgV
      ∧ ∃ t, exec (.syncFirst 40 false) (lockedAt 6 2) = .next t :=
  ⟨.inl ⟨rfl, rfl, rfl, rfl⟩, by decide, _, rfl⟩

theorem witness_ASyncNextPastTheCycleIsRefusedWithoutAChange :
    (counting 5 3).cfg.boundaries ≤ (counting 5 3).se.h.toNat + 1 := by decide

theorem witness_TheHandshakeLocksOnItsTimeline :
    (base cfgV 99 99).se.phase = .unsynced ∧ (base cfgV 99 99).se.hc1.toNat ≤ 99
      ∧ (base cfgV 99 99).se.hc2.toNat ≤ 99 := by decide

/-- The state of vector P3's end: the sync-final at boundary 247 has set the due index to 234. -/
theorem witness_SteadySendsAreOnePeriodApart :
    (lockedAt 234 3).se.phase = .locked ∧ 247 % (lockedAt 234 3).cfg.boundaries = (lockedAt 234 3).se.h.toNat
      ∧ (lockedAt 234 3).se.ticksToNextTx.toNat = (lockedAt 234 3).se.h.toNat + steadyPeriod (lockedAt 234 3).se := by
  decide

theorem witness_SetHouseCodeResetsExactlyOnAChange :
    (13 : Byte) = (lockedAt 9 2).se.hc1 ∧ (73 : Byte) = (lockedAt 9 2).se.hc2 ∧ (74 : Byte) ≠ (lockedAt 9 2).se.hc2 := by
  decide

theorem witness_QueriesAnswerTheirRegister :
    (lockedAt 9 2).se.phase = .locked ∧ (awaiting 9 2).se.phase ≠ .locked := by decide

/-- The four ways a phase changes. -/
theorem witness_PhasesFollowEachOtherInOrder :
    after (exec (.syncNext 50 false) (base cfgV 13 73)) (fun t => t.se.phase) = some .countingDown
      ∧ after (exec (.syncNext 60 false) (counting 3 1)) (fun t => t.se.phase) = some .awaitingFinal
      ∧ after (exec (.syncNext 60 false) (awaiting 3 2)) (fun t => t.se.phase) = some .locked
      ∧ after (exec .syncReset (lockedAt 9 2)) (fun t => t.se.phase) = some .unsynced := by decide +kernel

theorem witness_ReadOnlyAndIdempotentRequests : isReadOnly .isLocked = true := rfl

/-- One instruction of each of the clauses' classes gives a next state. -/
theorem witness_EveryInstructionLeavesTheOtherRegisters :
    (∃ t, exec .syncReset (lockedAt 9 2) = .next t) ∧ (∃ t, exec (.valveSet 50) (lockedAt 9 2) = .next t)
      ∧ (∃ t, exec .aggTick fullTable = .next t) ∧ writesEngine .aggTick = false ∧ isTiming .syncReset = false :=
  ⟨⟨_, rfl⟩, ⟨_, rfl⟩, ⟨_, rfl⟩, rfl, rfl⟩

theorem witness_ComponentsDoNotReadEachOther :
    (∃ t, exec .isLocked fullTable = .next t) ∧ isAggregatorRequest .isLocked = false
      ∧ (∃ t, exec .aggTick fullTable = .next t) ∧ isAggregatorRequest .aggTick = true :=
  ⟨⟨_, rfl⟩, rfl, ⟨_, rfl⟩, rfl⟩

theorem witness_OnlyTimingCallsTransmitAndOneFrameEach :
    ∃ t, exec (.syncFirst 40 false) (lockedAt 2 1) = .next t := ⟨_, rfl⟩

theorem witness_SendResultsDecideOnlyTheOpenFlag :
    (∃ t, exec (.syncFirst 40 false) (lockedAt 2 1) = .next t)
      ∧ ∃ t, exec (.syncFirst 40 false)
          { lockedAt 2 1 with io.sendResults := [false], io.drawCount := 7 } = .next t := ⟨⟨_, rfl⟩, _, rfl⟩

theorem witness_AStepRunsTheDecodedInstruction :
    (withPacket fullTable [0x21]).io.requests = [0x21] :: [] ∧ decodePacket [0x21] = .ok .aggTick := ⟨rfl, rfl⟩

theorem witness_AStepWithoutARequestChangesNothing : (State.resetWith cfgV).io.requests = [] := rfl

/-- An OK response, a decode error, an illegal packet and an overrun. -/
theorem witness_EveryPacketGetsOneResponse :
    after (step (withPacket fullTable [0x21])) answered = some [[0x00]]
      ∧ after (step (withPacket fullTable [0x02, 0x01, 0x00])) answered = some [[0x02]]
      ∧ after (step (withPacket fullTable [0x03])) answered = some [[0x80]]
      ∧ after (step (withPacket (counting 5 3) [0x11, 0x32, 0x00])) answered = some [[0x81]] := by decide

/-- The three clauses: the reserved id, a percent of 101, and a new id at a full table just below the threshold. -/
theorem witness_ReportsAreRejectedWithoutAChange :
    (0xFFFF : Half) = 0xFFFF ∧ 100 < (101 : Byte).toNat
      ∧ (∀ x ∈ fullTable.ag.slots, x.id ≠ 0xFFFF ∧ x.id ≠ 200)
      ∧ (49 : Byte).toNat < fullTable.ag.minIndividual.toNat := by decide

/-- The last slot of a full table, at percents 0 and 100. -/
theorem witness_AReportRefreshesItsOwnSlot :
    (107 : Half) ≠ 0xFFFF ∧ (100 : Byte).toNat ≤ 100
      ∧ fullTable.ag.slots[7]? = some { id := 107, ticksUntilOff := 59, percentOpen := 90 } := by decide +kernel

theorem witness_AReportRefreshesItsOwnSlot_lowest (j : Nat) (y : Slot) (hj : j < 7)
    (hy : fullTable.ag.slots[j]? = some y) : y.id ≠ 107 := by
  have : ∀ j, j < 7 → ∀ z ∈ fullTable.ag.slots[j]?, z.id ≠ 107 := by decide +kernel
  exact this j hj y hy

theorem witness_AReportClaimsTheFirstEmptySlot :
    (1 : Half) ≠ 0xFFFF ∧ (∀ y ∈ (table []).ag.slots, y.id ≠ 1) ∧ (table []).ag.slots[0]? = some Slot.empty
      ∧ Slot.empty.id = 0xFFFF ∧ ∀ (j : Nat) (y : Slot), j < 0 → (table []).ag.slots[j]? = some y → y.id ≠ 0xFFFF :=
  ⟨by decide +kernel, by decide +kernel, rfl, rfl, fun _ _ h => absurd h (Nat.not_lt_zero _)⟩

/-- A report at the threshold. -/
theorem witness_AReportEvictsTheLeastSlot :
    (200 : Half) ≠ 0xFFFF ∧ fullTable.ag.slots ≠ [] ∧ (∀ y ∈ fullTable.ag.slots, y.id ≠ 0xFFFF ∧ y.id ≠ 200)
      ∧ fullTable.ag.minIndividual.toNat ≤ (50 : Byte).toNat ∧ (50 : Byte).toNat ≤ 100 := by decide +kernel

/-- A slot at -128, one at -127, and an empty one. -/
theorem witness_ATickCountsEverySlotDown :
    (table [{ id := 5, ticksUntilOff := 0x80, percentOpen := 1 }, { id := 6, ticksUntilOff := 0x81, percentOpen := 2 }]
      ).ag.slots.take 3 =
      [{ id := 5, ticksUntilOff := 0x80, percentOpen := 1 }, { id := 6, ticksUntilOff := 0x81, percentOpen := 2 },
        { id := 0xFFFF, ticksUntilOff := 0, percentOpen := 0 }]
      ∧ (0x80 : Byte).toInt = -128 ∧ (0x81 : Byte).toInt ≠ -128 := by decide +kernel

theorem witness_AReportLivesSixtyTicksAndIsFreedAt189 :
    (5 : Half) ≠ 0xFFFF
      ∧ (table [{ id := 5, ticksUntilOff := 60, percentOpen := 80 }]).ag.slots[0]? =
          some { id := 5, ticksUntilOff := 60, percentOpen := 80 } := by decide +kernel

/-- An accepted and a held demand: see `test_aggTick_accepts`; here the hold time is not over. -/
theorem witness_ATickDecidesFromTheExactSum :
    after (exec .aggTick (table [{ id := 1, ticksUntilOff := 60, percentOpen := 80 }]))
        (fun t => (t.ag.callForHeat, t.ag.ticksInCurrentState, exactSum t.ag.slots)) = some (false, 1, 80) := by decide +kernel

theorem witness_TheDecisionHoldsForItsMinimumTicks :
    (table []).ag.ticksInCurrentState.toNat + [Instr.aggTick, .isLocked, .aggTick].count .aggTick ≤
        (table []).cfg.minTicksInEitherState.toNat
      ∧ ∃ t, execAll [.aggTick, .isLocked, .aggTick] (table []) = .next t := ⟨by decide, _, rfl⟩

/-- The table of vector A2, just below the threshold. -/
theorem witness_SmallOpeningsAloneNeverCallForHeat :
    (table [{ id := 1, ticksUntilOff := 60, percentOpen := 49 }, { id := 2, ticksUntilOff := 60, percentOpen := 49 }]
      ).ag.callForHeat = false
      ∧ ∀ x ∈ (table [{ id := 1, ticksUntilOff := 60, percentOpen := 49 },
          { id := 2, ticksUntilOff := 60, percentOpen := 49 }]).ag.slots,
        x.id ≠ 0xFFFF → 0 ≤ x.ticksUntilOff.toInt → x.percentOpen.toNat <
          (table [{ id := 1, ticksUntilOff := 60, percentOpen := 49 },
            { id := 2, ticksUntilOff := 60, percentOpen := 49 }]).ag.minIndividual.toNat := by decide

theorem witness_OneReportCallsForHeatOnItsTimeline :
    (table [{ id := 1, ticksUntilOff := 60, percentOpen := 80 }]).ag =
      { slots := { id := 1, ticksUntilOff := 60, percentOpen := 80 } :: List.replicate 7 Slot.empty
        callForHeat := false, ticksInCurrentState := 0, minIndividual := 50, minAggregate := 50 } := by decide

/-- R74's word on SUBMIT_REPORT: after a tick the same report sets `ticksUntilOff` from 59 to 60 again. -/
theorem witness_ReadOnlyAndIdempotentRequests_report :
    after (execAll [.submitReport 1 80, .aggTick] (table [])) (fun t => (t.ag.slots.head?).map Slot.ticksUntilOff) =
        some (some 59)
      ∧ after (execAll [.submitReport 1 80, .aggTick, .submitReport 1 80] (table []))
          (fun t => (t.ag.slots.head?).map Slot.ticksUntilOff) = some (some 60) := by decide

/-- A first call at a cycle's start, and one at the last boundary of a cycle. -/
theorem witness_ACallerThatHeedsNeedMoreSeesTheTimeline :
    (base cfgV 99 99).se.phase = .unsynced ∧ (base cfgV 99 99).se.hc1.toNat ≤ 99
      ∧ (base cfgV 99 99).se.hc2.toNat ≤ 99 ∧ 4 % (base cfgV 99 99).cfg.boundaries = 0
      ∧ 7 % ({ base cfgV 99 99 with se.h := 2 } : State).cfg.boundaries =
          ({ base cfgV 99 99 with se.h := 2 } : State).se.h.toNat + 1 := by decide

end Sys2Proof.Machine.Tests
end

section
/-!
Proofs about the scope and the configuration of R7: the configuration that the machine after `State.reset` carries.
-/
namespace Sys2Proof

/-- The default `M` of R7 gives the minor cycle of two seconds. -/
@[simp] theorem Config.delivered_boundaries : Config.delivered.boundaries = 4 := rfl

@[simp] theorem Config.delivered_opcValveSet : Config.delivered.opcValveSet = 0x26 := rfl

@[simp] theorem Config.delivered_opcSyncCountdown : Config.delivered.opcSyncCountdown = 0x2C := rfl

@[simp] theorem Config.delivered_opcSyncFinal : Config.delivered.opcSyncFinal = 0x20 := rfl

/-- R7's demand on the three opcodes does not touch the OPEN parameters, so the defaults alone meet it. -/
theorem Config.delivered_legal : Config.delivered.Legal := by
  simp [Config.Legal]

end Sys2Proof

namespace Sys2Proof.Machine

theorem State.reset_eq_resetWith_delivered : State.reset = State.resetWith Config.delivered := rfl

/-- Settles O2: the configuration is `Config.delivered`, whose OPEN parameters stay opaque. -/
theorem resetMachineHasTheDefaultParameters : Obligations.ResetMachineHasTheDefaultParameters :=
  ⟨Config.delivered, State.reset_eq_resetWith_delivered, Config.delivered_legal,
    Config.delivered_boundaries, Config.delivered_opcValveSet, Config.delivered_opcSyncCountdown,
    Config.delivered_opcSyncFinal⟩

end Sys2Proof.Machine
end

section
/-!
Rules about the transmit buffer: how long an encoded frame can be and what it begins with, so that composing one keeps the
buffer's form (R42, R106, R109).
-/
namespace Sys2Proof.Machine

/-! ### The length of a frame -/

theorem bitSymbols_length (b : Bool) : (bitSymbols b).length = 4 + 2 * b.toNat := by
  cases b <;> rfl

/-- A logical bit is four symbols, and a 1 two more (R93). -/
theorem symbolsOf_length (bits : List Bool) :
    (symbolsOf bits).length = 4 * bits.length + 2 * bits.count true := by
  induction bits with
  | nil => rfl
  | cons b bits ih =>
    rw [symbolsOf_cons, List.length_append, bitSymbols_length, ih]
    cases b <;> simp <;> omega

/-- Eight ones have the parity bit 0, so not all nine bits of a protected byte are ones (R96). -/
theorem protectedBits_count_le (v : Byte) : (protectedBits v).count true ≤ 8 := by
  have hdata : (bitsMsbFirst v).count true ≤ 8 := List.count_le_length
  rw [protectedBits, List.count_append, parityBit, popcount]
  obtain heq | hlt := hdata.eq_or_lt
  · rw [heq]
    exact le_refl 8
  · have hparity : List.count true [(bitsMsbFirst v).count true % 2 == 1] ≤ 1 := List.count_le_length
    omega

theorem byteSymbols_length_le (v : Byte) : (byteSymbols v).length ≤ 52 := by
  have hcount := protectedBits_count_le v
  have hlen : (protectedBits v).length = 9 := rfl
  rw [byteSymbols, symbolsOf_length]
  omega

/-- The longest symbol stream of R106. The address byte is 0 and has the shortest symbols; without that the bound would
not keep the frame inside the buffer. -/
theorem frameSymbols_length_le (hc1 hc2 opcode ext : Byte) : (frameSymbols hc1 hc2 opcode ext).length ≤ 358 := by
  have h1 := byteSymbols_length_le hc1
  have h2 := byteSymbols_length_le hc2
  have h3 : (byteSymbols 0).length = 36 := rfl
  have h4 := byteSymbols_length_le opcode
  have h5 := byteSymbols_length_le ext
  have h6 := byteSymbols_length_le (checksum hc1 hc2 0 opcode ext)
  have hpre : (symbolsOf (List.replicate preambleZeroBits false)).length = 48 := rfl
  simp only [frameSymbols, List.length_append, hpre, h3, bitSymbols_length, Bool.toNat_true, Bool.toNat_false]
  omega

theorem bufferSymbols_length (bytes : List Byte) : (bufferSymbols bytes).length = 8 * bytes.length := by
  induction bytes with
  | nil => rfl
  | cons b bytes ih => simp only [bufferSymbols_cons, List.length_append, bitsMsbFirst_length, ih, List.length_cons]; omega

/-- Eight symbols a byte, the last byte filled up (R102). -/
theorem packSymbols_length (symbols : List Bool) : (packSymbols symbols).length = (symbols.length + 7) / 8 := by
  obtain ⟨pad, hpad, hmod, heq⟩ := bufferSymbols_packSymbols symbols
  have hlen := congrArg List.length heq
  rw [bufferSymbols_length, List.length_append, List.length_replicate] at hlen
  omega

theorem frameBytes_length_le (hc1 hc2 opcode ext : Byte) : (frameBytes hc1 hc2 opcode ext).length ≤ 45 := by
  have := frameSymbols_length_le hc1 hc2 opcode ext
  rw [frameBytes, packSymbols_length]
  omega

/-- The first two preamble zeros fill the first byte (R104). -/
theorem frameBytes_head? (hc1 hc2 opcode ext : Byte) : (frameBytes hc1 hc2 opcode ext).head? = some 0xCC := rfl

/-! ### A composed frame in the buffer -/

theorem encodeFrame_length_le (hc1 hc2 opcode ext : Byte) :
    (encodeFrame hc1 hc2 opcode ext).length ≤ frameBufSize := by
  have := frameBytes_length_le hc1 hc2 opcode ext
  rw [encodeFrame, List.length_append, List.length_singleton, frameBufSize]
  omega

/-- A frame with its sentinel fits in the buffer (R109), so composing does not change the buffer's length. -/
theorem overlay_encodeFrame_length (hc1 hc2 opcode ext : Byte) (buffer : List Byte)
    (hlen : buffer.length = frameBufSize) :
    (overlay (encodeFrame hc1 hc2 opcode ext) buffer).length = frameBufSize := by
  rw [overlay_length, hlen]
  exact max_eq_right (encodeFrame_length_le hc1 hc2 opcode ext)

@[simp] theorem overlay_encodeFrame_head? (hc1 hc2 opcode ext : Byte) (buffer : List Byte) :
    (overlay (encodeFrame hc1 hc2 opcode ext) buffer).head? = some 0xCC := by
  simp only [overlay, encodeFrame, List.head?_append, frameBytes_head?, Option.some_or]

end Sys2Proof.Machine
end

section
/-!
Rules about the operations of a timing call: what each phase step does, and the one form that both timing calls have.
-/
namespace Sys2Proof.Machine

/-! ### What a timing call never writes -/

/-- The registers that no part of a timing call writes (R50): the configuration, the waiting requests, the house codes and
the aggregator. -/
def TimingFrame (s t : State) : Prop :=
  t.cfg = s.cfg ∧ t.io.requests = s.io.requests ∧ t.se.hc1 = s.se.hc1 ∧ t.se.hc2 = s.se.hc2 ∧ t.ag = s.ag

theorem TimingFrame.cfg {s t : State} (h : TimingFrame s t) : t.cfg = s.cfg := h.left

theorem TimingFrame.trans {s t u : State} (hst : TimingFrame s t) (htu : TimingFrame t u) : TimingFrame s u := by
  obtain ⟨hcfg, hreq, hhc1, hhc2, hag⟩ := hst
  obtain ⟨hcfg', hreq', hhc1', hhc2', hag'⟩ := htu
  exact ⟨hcfg'.trans hcfg, hreq'.trans hreq, hhc1'.trans hhc1, hhc2'.trans hhc2, hag'.trans hag⟩

/-! ### The phase steps -/

/-- The interface after an event has gone out and its draws are taken (R53, R54). -/
def Io.emit (io : Io) (e : TxEvent) : Io :=
  { io with
    sendResults := io.sendResults.drop e.copies.count
    drawCount := io.drawCount + e.copies.count
    events := io.events ++ [e] }

theorem Io.emit_events_length (io : Io) (e : TxEvent) : (io.emit e).events.length = io.events.length + 1 :=
  List.length_append

theorem transmit_eq (len : Nat) (copies : Copies) (s : State) :
    ∃ e : TxEvent, (transmit len copies s).2 = { s with io := s.io.emit e } := by
  obtain ⟨oks, _, _, _, h⟩ := transmit_spec len copies s
  exact ⟨{ frame := s.se.txBuffer.take len, copies := copies, sendOk := oks }, h⟩

/-- The state after a sent frame: the buffer holds it and the event is out; no other register is written (R184). -/
theorem sendFrame_eq (op ext : Byte) (copies : Copies) (s : State) :
    ∃ e : TxEvent, (sendFrame op ext copies s).2 = { s with
      se.txBuffer := overlay (encodeFrame s.se.hc1 s.se.hc2 op ext) s.se.txBuffer, io := s.io.emit e } := by
  obtain ⟨oks, _, _, _, h⟩ := sendFrame_spec op ext copies s
  exact ⟨{ frame := frameBytes s.se.hc1 s.se.hc2 op ext, copies := copies, sendOk := oks }, h⟩

/-- What a countdown step does (R175): nothing at an odd boundary; at an even one an odd countdown is sent, and the
countdown falls by 2, from 3 to the wait for the final. -/
theorem countdownStep_cases (s : State) :
    (s.se.h.toNat % 2 ≠ 0 ∧ countdownStep s = s)
    ∨ (s.se.countdown = 3 ∧ ∃ e : TxEvent, countdownStep s = { s with
        se := { s.se with
          countdown := 1, phase := .awaitingFinal, ticksToFinal := dueIndex finalBase s.se
          txBuffer := overlay (encodeFrame s.se.hc1 s.se.hc2 s.cfg.opcSyncCountdown 3) s.se.txBuffer }
        io := s.io.emit e })
    ∨ (s.se.countdown ≠ 3 ∧ s.se.countdown.toNat % 2 = 1 ∧ ∃ e : TxEvent, countdownStep s = { s with
        se := { s.se with
          countdown := s.se.countdown - 2
          txBuffer := overlay (encodeFrame s.se.hc1 s.se.hc2 s.cfg.opcSyncCountdown s.se.countdown) s.se.txBuffer }
        io := s.io.emit e })
    ∨ (s.se.countdown.toNat % 2 ≠ 1 ∧ countdownStep s = { s with se.countdown := s.se.countdown - 2 }) := by
  have hthree : s.se.countdown - 2 = 1 → s.se.countdown = 3 := eq_add_of_sub_eq
  rw [countdownStep, countdownSend]
  split
  · exact .inl ⟨‹_›, rfl⟩
  right
  split
  · rename_i hodd
    obtain ⟨e, hsend⟩ := sendFrame_eq s.cfg.opcSyncCountdown s.se.countdown .two s
    rw [hsend]
    obtain ⟨hone, hadvance⟩ | ⟨hone, hadvance⟩ := countdownAdvance_cases { s with
      se.txBuffer := overlay (encodeFrame s.se.hc1 s.se.hc2 s.cfg.opcSyncCountdown s.se.countdown) s.se.txBuffer
      io := s.io.emit e }
    · rw [hadvance, hthree hone]
      exact .inl ⟨rfl, e, by dsimp only [dueIndex]⟩
    · refine .inr (.inl ⟨fun h => hone ?_, hodd, e, hadvance⟩)
      dsimp only
      rw [h]
      decide
  · rename_i heven
    obtain ⟨hone, _⟩ | ⟨_, hadvance⟩ := countdownAdvance_cases s
    · exact absurd (by rw [hthree hone]; decide) heven
    · exact .inr (.inr ⟨heven, hadvance⟩)

/-- What a final step does (R177): nothing before its boundary; at it the sync-final and then the first valve-set stand in the
buffer, and the engine is Locked. -/
theorem finalStep_cases (pct : Byte) (s : State) :
    (s.se.ticksToFinal ≠ s.se.h ∧ finalStep pct s = s)
    ∨ (s.se.ticksToFinal = s.se.h ∧ ∃ e : TxEvent, finalStep pct s = { s with
        se := { s.se with
          flag := false, phase := .locked, commandedPercent := pct, ticksToNextTx := dueIndex gapBase s.se
          txBuffer := overlay (encodeFrame s.se.hc1 s.se.hc2 s.cfg.opcValveSet (scale pct))
            (overlay (encodeFrame s.se.hc1 s.se.hc2 s.cfg.opcSyncFinal 0) s.se.txBuffer) }
        io := s.io.emit e }) := by
  rw [finalStep]
  split
  · obtain ⟨e, hsend⟩ := sendFrame_eq s.cfg.opcSyncFinal 0 .two s
    rw [hsend]
    exact .inr ⟨‹_›, e, by dsimp only [composeValveSet, compose, dueIndex]⟩
  · exact .inl ⟨‹_›, rfl⟩

/-- What a steady step does (R179): nothing before its boundary; at it the valve-set of this call is sent, and the next send
is due a period on. The flag is some value: that it depends on the results is R183. -/
theorem steadyStep_cases (pct : Byte) (dbl : Bool) (s : State) :
    (s.se.ticksToNextTx ≠ s.se.h ∧ steadyStep pct dbl s = s)
    ∨ (s.se.ticksToNextTx = s.se.h ∧ ∃ (flag : Bool) (e : TxEvent), steadyStep pct dbl s = { s with
        se := { s.se with
          flag := flag, commandedPercent := pct, ticksToNextTx := dueIndex gapBase s.se
          txBuffer := overlay (encodeFrame s.se.hc1 s.se.hc2 s.cfg.opcValveSet (scale pct)) s.se.txBuffer }
        io := s.io.emit e }) := by
  rw [steadyStep]
  split
  · obtain ⟨e, hsend⟩ :=
      transmit_eq (composedLength s.cfg.opcValveSet (scale pct) s) (steadyCopies dbl) (composeValveSet pct s)
    generalize transmit _ (steadyCopies dbl) (composeValveSet pct s) = sent at hsend ⊢
    refine .inr ⟨‹_›, if sent.1 then meaningfullyOpen s.cfg pct else s.se.flag, e, ?_⟩
    dsimp only
    rw [hsend]
    dsimp only [composeValveSet, compose, dueIndex]
  · exact .inl ⟨‹_›, rfl⟩

theorem countdownStep_frame (s : State) : TimingFrame s (countdownStep s) := by
  obtain ⟨_, h⟩ | ⟨_, _, h⟩ | ⟨_, _, _, h⟩ | ⟨_, h⟩ := countdownStep_cases s <;> rw [h] <;>
    exact ⟨rfl, rfl, rfl, rfl, rfl⟩

theorem finalStep_frame (pct : Byte) (s : State) : TimingFrame s (finalStep pct s) := by
  obtain ⟨_, h⟩ | ⟨_, _, h⟩ := finalStep_cases pct s <;> rw [h] <;> exact ⟨rfl, rfl, rfl, rfl, rfl⟩

theorem steadyStep_frame (pct : Byte) (dbl : Bool) (s : State) : TimingFrame s (steadyStep pct dbl s) := by
  obtain ⟨_, h⟩ | ⟨_, _, _, h⟩ := steadyStep_cases pct dbl s <;> rw [h] <;> exact ⟨rfl, rfl, rfl, rfl, rfl⟩

theorem act_frame (pct : Byte) (dbl : Bool) (s : State) : TimingFrame s (act pct dbl s) := by
  obtain ⟨_, _, h⟩ | ⟨_, _, h⟩ | ⟨_, h⟩ | ⟨_, h⟩ | ⟨_, h⟩ := act_cases pct dbl s <;> rw [h]
  · exact ⟨rfl, rfl, rfl, rfl, rfl⟩
  · exact .trans (t := { s with se.phase := .countingDown, se.countdown := countdownStart })
      ⟨rfl, rfl, rfl, rfl, rfl⟩ (countdownStep_frame _)
  · exact countdownStep_frame s
  · exact finalStep_frame pct s
  · exact steadyStep_frame pct dbl s

theorem act_of_countingDown (pct : Byte) (dbl : Bool) (s : State) (hp : s.se.phase = .countingDown) :
    act pct dbl s = countdownStep s := by
  obtain ⟨hq, _⟩ | ⟨hq, _⟩ | ⟨_, h⟩ | ⟨hq, _⟩ | ⟨hq, _⟩ := act_cases pct dbl s
  case inr.inr.inl => exact h
  all_goals exact absurd (hp.symm.trans hq) (by decide)

theorem act_of_awaitingFinal (pct : Byte) (dbl : Bool) (s : State) (hp : s.se.phase = .awaitingFinal) :
    act pct dbl s = finalStep pct s := by
  obtain ⟨hq, _⟩ | ⟨hq, _⟩ | ⟨hq, _⟩ | ⟨_, h⟩ | ⟨hq, _⟩ := act_cases pct dbl s
  case inr.inr.inr.inl => exact h
  all_goals exact absurd (hp.symm.trans hq) (by decide)

theorem act_of_locked (pct : Byte) (dbl : Bool) (s : State) (hp : s.se.phase = .locked) :
    act pct dbl s = steadyStep pct dbl s := by
  obtain ⟨hq, _⟩ | ⟨hq, _⟩ | ⟨hq, _⟩ | ⟨hq, _⟩ | ⟨_, h⟩ := act_cases pct dbl s
  case inr.inr.inr.inr => exact h
  all_goals exact absurd (hp.symm.trans hq) (by decide)

/-! ### Both timing calls in one form -/

theorem boundaries_cases (cfg : Config) : cfg.boundaries = 2 ∨ cfg.boundaries = 4 := by
  rcases hm : cfg.minorCycle with _ | _ <;> simp [Config.boundaries, MinorCycle.boundaries, hm]

theorem boundaries_le (cfg : Config) : cfg.boundaries ≤ 4 := by
  obtain h | h := boundaries_cases cfg <;> omega

/-- A due index lowered by this many boundaries, or by as many as there are (R171, R185). -/
def lowerIndex (lowered : Nat) (t : Byte) : Byte := BitVec.ofNat 8 (t.toNat - lowered)

theorem lowerIndex_toNat (lowered : Nat) (t : Byte) : (lowerIndex lowered t).toNat = t.toNat - lowered :=
  (BitVec.toNat_ofNat ..).trans (Nat.mod_eq_of_lt ((Nat.sub_le ..).trans_lt t.isLt))

theorem lowerIndex_zero (t : Byte) : lowerIndex 0 t = t := BitVec.eq_of_toNat_eq (lowerIndex_toNat 0 t)

theorem ageIndex_eq_lowerIndex (m : Nat) (t : Byte) : ageIndex m t = lowerIndex m t :=
  BitVec.eq_of_toNat_eq ((ageIndex_toNat m t).trans (lowerIndex_toNat m t).symm)

/-- The state in which a timing call made at boundary `h` acts: `SE.h` is that boundary, and the due index of the phase is
lowered. -/
def atBoundary (h lowered : Nat) (s : State) : State :=
  { s with
    se.h := BitVec.ofNat 8 h
    se.ticksToFinal :=
      if s.se.phase = .awaitingFinal then lowerIndex lowered s.se.ticksToFinal else s.se.ticksToFinal
    se.ticksToNextTx :=
      if s.se.phase = .locked then lowerIndex lowered s.se.ticksToNextTx else s.se.ticksToNextTx }

theorem beginCycle_eq_atBoundary (s : State) : beginCycle s = atBoundary 0 s.cfg.boundaries s := by
  cases hp : s.se.phase <;> simp [beginCycle, atBoundary, hp, ageIndex_eq_lowerIndex]

theorem nextBoundary_eq_atBoundary (s : State) :
    { s with se.h := s.se.h + 1 } = atBoundary (s.se.h.toNat + 1) 0 s := by
  have hsucc : BitVec.ofNat 8 (s.se.h.toNat + 1) = s.se.h + 1 := BitVec.eq_of_toNat_eq (by simp)
  unfold atBoundary
  rw [lowerIndex_zero, lowerIndex_zero, ite_self, ite_self, hsucc]

theorem atBoundary_frame (h lowered : Nat) (s : State) : TimingFrame s (atBoundary h lowered s) :=
  ⟨rfl, rfl, rfl, rfl, rfl⟩

theorem atBoundary_io (h lowered : Nat) (s : State) : (atBoundary h lowered s).io = s.io := rfl

theorem atBoundary_se_of_idle (h lowered : Nat) (s : State) (hfinal : s.se.phase ≠ .awaitingFinal)
    (hlocked : s.se.phase ≠ .locked) : (atBoundary h lowered s).se = { s.se with h := BitVec.ofNat 8 h } := by
  unfold atBoundary
  rw [if_neg hfinal, if_neg hlocked]

theorem atBoundary_se_of_awaitingFinal (h lowered : Nat) (s : State) (hp : s.se.phase = .awaitingFinal) :
    (atBoundary h lowered s).se =
      { s.se with h := BitVec.ofNat 8 h, ticksToFinal := lowerIndex lowered s.se.ticksToFinal } := by
  have hlocked : s.se.phase ≠ .locked := by rw [hp]; decide
  unfold atBoundary
  rw [if_pos hp, if_neg hlocked]

theorem atBoundary_se_of_locked (h lowered : Nat) (s : State) (hp : s.se.phase = .locked) :
    (atBoundary h lowered s).se =
      { s.se with h := BitVec.ofNat 8 h, ticksToNextTx := lowerIndex lowered s.se.ticksToNextTx } := by
  have hfinal : s.se.phase ≠ .awaitingFinal := by rw [hp]; decide
  unfold atBoundary
  rw [if_neg hfinal, if_pos hp]

theorem actAndRespond_se (pct : Byte) (dbl : Bool) (s : State) :
    (actAndRespond pct dbl s).se = (act (preparePct pct) dbl s).se := rfl

theorem actAndRespond_io_events (pct : Byte) (dbl : Bool) (s : State) :
    (actAndRespond pct dbl s).io.events = (act (preparePct pct) dbl s).io.events := rfl

theorem actAndRespond_frame (pct : Byte) (dbl : Bool) (s : State) : TimingFrame s (actAndRespond pct dbl s) :=
  (act_frame (preparePct pct) dbl s).trans ⟨rfl, rfl, rfl, rfl, rfl⟩

section
variable {s : State} {i : Instr} {pct : Byte} {dbl : Bool} {h lowered passed : Nat}

/-- SYNC_FIRST and an admitted SYNC_NEXT differ only in the boundary and in how far a due index is lowered (R171, R172). -/
theorem TimingCall.exec_eq (hcall : TimingCall s i pct dbl h lowered passed) :
    exec i s = .next (actAndRespond pct dbl (atBoundary h lowered s)) := by
  obtain ⟨rfl, rfl, rfl, rfl⟩ | ⟨rfl, rfl, hlt, rfl, rfl⟩ := hcall
  · rw [← beginCycle_eq_atBoundary]
    rfl
  · rw [← nextBoundary_eq_atBoundary]
    exact if_neg (by omega)

theorem TimingCall.frame (_ : TimingCall s i pct dbl h lowered passed) :
    TimingFrame s (actAndRespond pct dbl (atBoundary h lowered s)) :=
  (atBoundary_frame h lowered s).trans (actAndRespond_frame pct dbl _)

theorem TimingCall.boundary_lt (hcall : TimingCall s i pct dbl h lowered passed) : h < s.cfg.boundaries := by
  obtain ⟨_, rfl, _, _⟩ | ⟨_, _, hlt, _, _⟩ := hcall
  · have := boundaries_cases s.cfg
    omega
  · exact hlt

/-- Time passes alike whether a boundary was delivered or skipped (R38): of the boundaries up to the call, those that do not
move `SE.h` lower the due index. -/
theorem TimingCall.passed_eq (hcall : TimingCall s i pct dbl h lowered passed) (hh : s.se.h.toNat < s.cfg.boundaries) :
    s.se.h.toNat + passed = h + lowered := by
  obtain ⟨_, rfl, rfl, rfl⟩ | ⟨_, rfl, _, rfl, rfl⟩ := hcall <;> omega

end

end Sys2Proof.Machine
end

section
/-!
Rules about what one execution can do, and the invariant of the SyncEngine and the aggregator: how each operation keeps it.
-/
namespace Sys2Proof.Machine

/-! ### What one execution can do -/

theorem exec_setHouseCode_cases (hc1 hc2 : Byte) (s : State) :
    ((hc1, hc2) = (s.se.hc1, s.se.hc2) ∧ exec (.setHouseCode hc1 hc2) s = .next (respondOk [] s))
    ∨ ((hc1, hc2) ≠ (s.se.hc1, s.se.hc2)
        ∧ exec (.setHouseCode hc1 hc2) s =
            .next (respondOk [] (syncReset { s with se.hc1 := hc1, se.hc2 := hc2 }))) := by
  by_cases hsame : (hc1, hc2) = (s.se.hc1, s.se.hc2)
  · exact .inl ⟨hsame, if_neg (not_not_intro hsame)⟩
  · exact .inr ⟨hsame, if_pos hsame⟩

theorem eq_of_exec {s t u : State} {i : Instr} (hu : exec i s = .next u) (h : exec i s = .next t) : t = u :=
  Host.Outcome.next.inj (h.symm.trans hu)

/-- The six requests of R74 that change no state only respond. -/
theorem exec_readOnly {s t : State} {i : Instr} (h : exec i s = .next t) (hi : isReadOnly i = true) :
    ∃ r : List Byte, t = respond r s := by
  cases i with
  | encode | decode | isLocked | getCommandedPct | getOpenFlag | isCallingForHeat => exact ⟨_, eq_of_exec rfl h⟩
  | _ => cases hi

theorem exec_syncNext_of_last {s : State} (hlast : s.cfg.boundaries ≤ s.se.h.toNat + 1) (pct : Byte) (dbl : Bool) :
    exec (.syncNext pct dbl) s = .next (raiseFault .halfSecondOverrun s) :=
  if_pos hlast

/-- A timing call either acts at a boundary or is one too many for the minor cycle (R171, R172, R264). -/
theorem exec_timing {s t : State} {i : Instr} (h : exec i s = .next t) (hi : isTiming i = true) :
    (∃ (pct : Byte) (dbl : Bool), i = .syncNext pct dbl ∧ s.cfg.boundaries ≤ s.se.h.toNat + 1
      ∧ t = raiseFault .halfSecondOverrun s)
    ∨ ∃ (pct : Byte) (dbl : Bool) (boundary lowered passed : Nat),
        TimingCall s i pct dbl boundary lowered passed
        ∧ t = actAndRespond pct dbl (atBoundary boundary lowered s) := by
  cases i with
  | syncFirst pct dbl =>
    have hcall : TimingCall s (.syncFirst pct dbl) pct dbl 0 s.cfg.boundaries (s.cfg.boundaries - s.se.h.toNat) :=
      .inl ⟨rfl, rfl, rfl, rfl⟩
    exact .inr ⟨_, _, _, _, _, hcall, eq_of_exec hcall.exec_eq h⟩
  | syncNext pct dbl =>
    by_cases hlast : s.cfg.boundaries ≤ s.se.h.toNat + 1
    · exact .inl ⟨pct, dbl, rfl, hlast, eq_of_exec (exec_syncNext_of_last hlast pct dbl) h⟩
    · have hcall : TimingCall s (.syncNext pct dbl) pct dbl (s.se.h.toNat + 1) 0 1 :=
        .inr ⟨rfl, rfl, by omega, rfl, rfl⟩
      exact .inr ⟨_, _, _, _, _, hcall, eq_of_exec hcall.exec_eq h⟩
  | _ => cases hi

/-! ### The SyncEngine's invariant, phase by phase

With the phase known, the clauses of the other phases say nothing, and what is left is one conjunction. -/

section
variable {cfg : Config} {se : SyncEngine}

theorem SyncEngine.inv_iff_of_unsynced (hp : se.phase = .unsynced) :
    se.Inv cfg ↔
      se.h.toNat < cfg.boundaries ∧ se.flag = false ∧ (se.countdown = 0 ∧ se.ticksToFinal = 0 ∧ se.ticksToNextTx = 0)
      ∧ se.commandedPercent = 0 ∧ se.txBuffer = List.replicate frameBufSize sentinel := by
  have hne {p : Phase} (h : .unsynced ≠ p) : se.phase ≠ p := hp ▸ h
  constructor
  · rintro ⟨hh, _, _, hflag, ⟨hzero, _, _, _, hpct⟩, _, hbuf, _⟩
    exact ⟨hh, hflag (hne (by decide)), hzero hp, hpct (hne (by decide)), hbuf hp⟩
  · rintro ⟨hh, hflag, hzero, hpct, hbuf⟩
    exact ⟨hh, hpct ▸ Nat.zero_le _, fun h => absurd hp h, fun _ => hflag,
      ⟨fun _ => hzero, fun h => absurd h (hne (by decide)), fun h => absurd h (hne (by decide)),
        fun h => absurd h (hne (by decide)), fun _ => hpct⟩,
      hbuf ▸ rfl, fun _ => hbuf, fun h => h.elim (absurd · (hne (by decide))) (absurd · (hne (by decide)))⟩

theorem SyncEngine.inv_iff_of_countingDown (hp : se.phase = .countingDown) :
    se.Inv cfg ↔
      se.h.toNat < cfg.boundaries ∧ (se.hc1.toNat ≤ 99 ∧ se.hc2.toNat ≤ 99) ∧ se.flag = false
      ∧ (se.countdown.toNat % 2 = 1 ∧ 3 ≤ se.countdown.toNat ∧ se.countdown.toNat ≤ 241)
      ∧ se.commandedPercent = 0 ∧ se.txBuffer.length = frameBufSize := by
  have hne {p : Phase} (h : .countingDown ≠ p) : se.phase ≠ p := hp ▸ h
  constructor
  · rintro ⟨hh, _, hpair, hflag, ⟨_, hcount, _, _, hpct⟩, hlen, _, _⟩
    exact ⟨hh, hpair (hne (by decide)), hflag (hne (by decide)), hcount hp, hpct (hne (by decide)), hlen⟩
  · rintro ⟨hh, hpair, hflag, hcount, hpct, hlen⟩
    exact ⟨hh, hpct ▸ Nat.zero_le _, fun _ => hpair, fun _ => hflag,
      ⟨fun h => absurd h (hne (by decide)), fun _ => hcount, fun h => absurd h (hne (by decide)),
        fun h => absurd h (hne (by decide)), fun _ => hpct⟩,
      hlen, fun h => absurd h (hne (by decide)), fun h => h.elim (absurd · (hne (by decide))) (absurd · (hne (by decide)))⟩

theorem SyncEngine.inv_iff_of_awaitingFinal (hp : se.phase = .awaitingFinal) :
    se.Inv cfg ↔
      se.h.toNat < cfg.boundaries ∧ (se.hc1.toNat ≤ 99 ∧ se.hc2.toNat ≤ 99) ∧ se.flag = false
      ∧ (se.countdown = 1 ∧ se.h.toNat < se.ticksToFinal.toNat ∧ se.ticksToFinal.toNat ≤ se.h.toNat + 15)
      ∧ se.commandedPercent = 0 ∧ se.txBuffer.length = frameBufSize ∧ se.txBuffer.head? = some 0xCC := by
  have hne {p : Phase} (h : .awaitingFinal ≠ p) : se.phase ≠ p := hp ▸ h
  constructor
  · rintro ⟨hh, _, hpair, hflag, ⟨_, _, hfinal, _, hpct⟩, hlen, _, hhead⟩
    exact ⟨hh, hpair (hne (by decide)), hflag (hne (by decide)), hfinal hp, hpct (hne (by decide)), hlen, hhead (.inl hp)⟩
  · rintro ⟨hh, hpair, hflag, hfinal, hpct, hlen, hhead⟩
    exact ⟨hh, hpct ▸ Nat.zero_le _, fun _ => hpair, fun _ => hflag,
      ⟨fun h => absurd h (hne (by decide)), fun h => absurd h (hne (by decide)), fun _ => hfinal,
        fun h => absurd h (hne (by decide)), fun _ => hpct⟩,
      hlen, fun h => absurd h (hne (by decide)), fun _ => hhead⟩

theorem SyncEngine.inv_iff_of_locked (hp : se.phase = .locked) :
    se.Inv cfg ↔
      se.h.toNat < cfg.boundaries ∧ (se.hc1.toNat ≤ 99 ∧ se.hc2.toNat ≤ 99)
      ∧ (se.countdown = 1 ∧ se.h.toNat < se.ticksToNextTx.toNat ∧ se.ticksToNextTx.toNat ≤ se.h.toNat + 237)
      ∧ se.commandedPercent.toNat ≤ 100 ∧ se.txBuffer.length = frameBufSize ∧ se.txBuffer.head? = some 0xCC := by
  have hne {p : Phase} (h : .locked ≠ p) : se.phase ≠ p := hp ▸ h
  constructor
  · rintro ⟨hh, hpct, hpair, _, ⟨_, _, _, hnext, _⟩, hlen, _, hhead⟩
    exact ⟨hh, hpair (hne (by decide)), hnext hp, hpct, hlen, hhead (.inr hp)⟩
  · rintro ⟨hh, hpair, hnext, hpct, hlen, hhead⟩
    exact ⟨hh, hpct, fun _ => hpair, fun h => absurd hp h,
      ⟨fun h => absurd h (hne (by decide)), fun h => absurd h (hne (by decide)), fun h => absurd h (hne (by decide)),
        fun _ => hnext, fun h => absurd hp h⟩,
      hlen, fun h => absurd h (hne (by decide)), fun _ => hhead⟩

end

end Sys2Proof.Machine
end

section
/-!
The SyncEngine's invariant: the engine's registers after each timing call, and that every timing call keeps the invariant.
-/
namespace Sys2Proof.Machine

/-! ### The engine after a timing call that waits for an event -/

section
variable {s : State} {i : Instr} {pct : Byte} {dbl : Bool} {h lowered passed : Nat}

theorem TimingCall.boundary_toNat (hcall : TimingCall s i pct dbl h lowered passed) :
    (BitVec.ofNat 8 h).toNat = h := by
  have hle := hcall.boundary_lt.le.trans (boundaries_le s.cfg)
  rw [BitVec.toNat_ofNat]
  omega

theorem TimingCall.boundary_toNat_lt (hcall : TimingCall s i pct dbl h lowered passed) :
    (BitVec.ofNat 8 h).toNat < s.cfg.boundaries := by
  rw [hcall.boundary_toNat]
  exact hcall.boundary_lt

/-- A due index that was ahead is not passed by, since a late one becomes due at once (R185), and is no further ahead. -/
theorem TimingCall.lowered_bounds (hcall : TimingCall s i pct dbl h lowered passed) (hh : s.se.h.toNat < s.cfg.boundaries)
    {due ahead : Nat} (hlow : s.se.h.toNat < due) (hhigh : due ≤ s.se.h.toNat + ahead) :
    h ≤ due - lowered ∧ due - lowered ≤ h + ahead := by
  obtain ⟨_, rfl, rfl, _⟩ | ⟨_, rfl, _, rfl, _⟩ := hcall
  · exact ⟨Nat.zero_le _, by omega⟩
  · exact ⟨hlow, by omega⟩

theorem TimingCall.lowerIndex_eq_iff (hcall : TimingCall s i pct dbl h lowered passed) (t : Byte) :
    lowerIndex lowered t = BitVec.ofNat 8 h ↔ t.toNat - lowered = h := by
  rw [← BitVec.toNat_inj, lowerIndex_toNat, hcall.boundary_toNat]

/-- An index that is not due is still ahead of the boundary. -/
theorem TimingCall.lowerIndex_bounds (hcall : TimingCall s i pct dbl h lowered passed) {t : Byte} {ahead : Nat}
    (hdue : t.toNat - lowered ≠ h) (hbounds : h ≤ t.toNat - lowered ∧ t.toNat - lowered ≤ h + ahead) :
    (BitVec.ofNat 8 h).toNat < (lowerIndex lowered t).toNat
    ∧ (lowerIndex lowered t).toNat ≤ (BitVec.ofNat 8 h).toNat + ahead := by
  rw [lowerIndex_toNat, hcall.boundary_toNat]
  exact ⟨lt_of_le_of_ne hbounds.1 hdue.symm, hbounds.2⟩

/-- Counted from the boundary of the call, the steady period does not overflow the due index (R37). -/
theorem TimingCall.gapIndex_toNat (hcall : TimingCall s i pct dbl h lowered passed) (se : SyncEngine) :
    (dueIndex gapBase { se with h := BitVec.ofNat 8 h }).toNat = h + steadyPeriod se := by
  have hboundary := hcall.boundary_toNat
  have hle := hcall.boundary_lt.le.trans (boundaries_le s.cfg)
  have hgap : gapBase.toNat = 230 := rfl
  rw [dueIndex_toNat _ _ (by dsimp only; omega), hgap, hboundary]
  exact Nat.add_assoc h _ 230

theorem TimingCall.gapIndex_bounds (hcall : TimingCall s i pct dbl h lowered passed) (se : SyncEngine) :
    (BitVec.ofNat 8 h).toNat < (dueIndex gapBase { se with h := BitVec.ofNat 8 h }).toNat
    ∧ (dueIndex gapBase { se with h := BitVec.ofNat 8 h }).toNat ≤ (BitVec.ofNat 8 h).toNat + 237 := by
  rw [hcall.gapIndex_toNat, hcall.boundary_toNat, steadyPeriod, delayOf]
  omega

theorem TimingCall.act_of_final_not_due (hcall : TimingCall s i pct dbl h lowered passed)
    (hp : s.se.phase = .awaitingFinal) (hdue : s.se.ticksToFinal.toNat - lowered ≠ h) (pct' : Byte) :
    act pct' dbl (atBoundary h lowered s) = atBoundary h lowered s := by
  have hse := atBoundary_se_of_awaitingFinal h lowered s hp
  rw [act_of_awaitingFinal _ _ (atBoundary h lowered s) hp]
  obtain ⟨_, hstep⟩ | ⟨hnow, _⟩ := finalStep_cases pct' (atBoundary h lowered s)
  · exact hstep
  · rw [hse] at hnow
    exact absurd ((hcall.lowerIndex_eq_iff _).mp hnow) hdue

theorem TimingCall.act_of_final_due (hcall : TimingCall s i pct dbl h lowered passed)
    (hp : s.se.phase = .awaitingFinal) (hdue : s.se.ticksToFinal.toNat - lowered = h) (pct' : Byte) :
    (act pct' dbl (atBoundary h lowered s)).se = { s.se with
        h := BitVec.ofNat 8 h, flag := false, phase := .locked, commandedPercent := pct'
        ticksToFinal := BitVec.ofNat 8 h
        ticksToNextTx := dueIndex gapBase { s.se with h := BitVec.ofNat 8 h }
        txBuffer := overlay (encodeFrame s.se.hc1 s.se.hc2 s.cfg.opcValveSet (scale pct'))
          (overlay (encodeFrame s.se.hc1 s.se.hc2 s.cfg.opcSyncFinal 0) s.se.txBuffer) }
    ∧ (act pct' dbl (atBoundary h lowered s)).io.events.length = s.io.events.length + 1 := by
  have hse := atBoundary_se_of_awaitingFinal h lowered s hp
  have hindex := (hcall.lowerIndex_eq_iff _).mpr hdue
  rw [act_of_awaitingFinal _ _ (atBoundary h lowered s) hp]
  obtain ⟨hwait, _⟩ | ⟨_, e, hstep⟩ := finalStep_cases pct' (atBoundary h lowered s)
  · rw [hse] at hwait
    exact absurd hindex hwait
  · rw [hstep]
    refine ⟨?_, Io.emit_events_length ..⟩
    dsimp only
    rw [hse, hindex, (atBoundary_frame h lowered s).cfg]
    rfl

theorem TimingCall.act_of_steady_not_due (hcall : TimingCall s i pct dbl h lowered passed)
    (hp : s.se.phase = .locked) (hdue : s.se.ticksToNextTx.toNat - lowered ≠ h) (pct' : Byte) :
    act pct' dbl (atBoundary h lowered s) = atBoundary h lowered s := by
  have hse := atBoundary_se_of_locked h lowered s hp
  rw [act_of_locked _ _ (atBoundary h lowered s) hp]
  obtain ⟨_, hstep⟩ | ⟨hnow, _⟩ := steadyStep_cases pct' dbl (atBoundary h lowered s)
  · exact hstep
  · rw [hse] at hnow
    exact absurd ((hcall.lowerIndex_eq_iff _).mp hnow) hdue

theorem TimingCall.act_of_steady_due (hcall : TimingCall s i pct dbl h lowered passed)
    (hp : s.se.phase = .locked) (hdue : s.se.ticksToNextTx.toNat - lowered = h) (pct' : Byte) :
    (∃ flag : Bool, (act pct' dbl (atBoundary h lowered s)).se = { s.se with
        h := BitVec.ofNat 8 h, flag := flag, commandedPercent := pct'
        ticksToNextTx := dueIndex gapBase { s.se with h := BitVec.ofNat 8 h }
        txBuffer := overlay (encodeFrame s.se.hc1 s.se.hc2 s.cfg.opcValveSet (scale pct')) s.se.txBuffer })
    ∧ (act pct' dbl (atBoundary h lowered s)).io.events.length = s.io.events.length + 1 := by
  have hse := atBoundary_se_of_locked h lowered s hp
  rw [act_of_locked _ _ (atBoundary h lowered s) hp]
  obtain ⟨hwait, _⟩ | ⟨_, flag, e, hstep⟩ := steadyStep_cases pct' dbl (atBoundary h lowered s)
  · rw [hse] at hwait
    exact absurd ((hcall.lowerIndex_eq_iff _).mpr hdue) hwait
  · rw [hstep]
    refine ⟨⟨flag, ?_⟩, Io.emit_events_length ..⟩
    dsimp only
    rw [hse, (atBoundary_frame h lowered s).cfg]
    rfl

end

/-! ### Every timing call keeps the invariant -/

theorem housePairValid_iff (se : SyncEngine) :
    se.housePairValid = true ↔ se.hc1.toNat ≤ 99 ∧ se.hc2.toNat ≤ 99 := by
  rw [SyncEngine.housePairValid, decide_eq_true_iff]

/-- A countdown that goes on stays odd and in 3..241 (R35). -/
theorem countdown_sub_two {c : Byte} (hodd : c.toNat % 2 = 1) (hlow : 3 ≤ c.toNat) (hhigh : c.toNat ≤ 241)
    (hne : c ≠ 3) : (c - 2).toNat % 2 = 1 ∧ 3 ≤ (c - 2).toNat ∧ (c - 2).toNat ≤ 241 := by
  have hne' : c.toNat ≠ 3 := fun h => hne (BitVec.eq_of_toNat_eq h)
  have htwo : (2 : Byte) ≤ c := Nat.le_of_lt hlow
  rw [BitVec.toNat_sub_of_le htwo, show (2 : Byte).toNat = 2 from rfl]
  clear hne htwo
  omega

/-- The sync-final is due 8 to 15 boundaries on (R36). -/
theorem finalIndex_bounds (se : SyncEngine) (hh : se.h.toNat ≤ 4) :
    se.h.toNat < (dueIndex finalBase se).toNat ∧ (dueIndex finalBase se).toNat ≤ se.h.toNat + 15 := by
  have hbase : finalBase.toNat = 8 := rfl
  rw [dueIndex_toNat finalBase se (by omega), hbase]
  omega

/-- The countdown stays in its range, or it is over and the final is at most 15 boundaries away (R35, R36). -/
theorem countdownStep_keeps_inv (s : State) (hp : s.se.phase = .countingDown) (hs : s.se.Inv s.cfg) :
    (countdownStep s).se.Inv s.cfg := by
  obtain ⟨hh, hpair, hflag, ⟨hodd, hlow, hhigh⟩, hpct, hlen⟩ := (SyncEngine.inv_iff_of_countingDown hp).mp hs
  have hlen' := fun ext => overlay_encodeFrame_length s.se.hc1 s.se.hc2 s.cfg.opcSyncCountdown ext s.se.txBuffer hlen
  obtain ⟨_, hstep⟩ | ⟨_, _, hstep⟩ | ⟨hne, _, _, hstep⟩ | ⟨heven, _⟩ := countdownStep_cases s
  · rwa [hstep]
  · rw [hstep]
    exact (SyncEngine.inv_iff_of_awaitingFinal rfl).mpr ⟨hh, hpair, hflag,
      ⟨rfl, finalIndex_bounds s.se (hh.le.trans (boundaries_le s.cfg))⟩, hpct, hlen' 3, overlay_encodeFrame_head? ..⟩
  · rw [hstep]
    exact (SyncEngine.inv_iff_of_countingDown (by exact hp)).mpr
      ⟨hh, hpair, hflag, countdown_sub_two hodd hlow hhigh hne, hpct, hlen' s.se.countdown⟩
  · exact absurd hodd heven

section
variable {s : State} {i : Instr} {pct : Byte} {dbl : Bool} {h lowered passed : Nat}

theorem TimingCall.keeps_inv_of_unsynced (hcall : TimingCall s i pct dbl h lowered passed)
    (hp : s.se.phase = .unsynced) (hs : s.se.Inv s.cfg) (pct' : Byte) :
    (act pct' dbl (atBoundary h lowered s)).se.Inv s.cfg := by
  obtain ⟨_, hflag, hzero, hpct, hbuf⟩ := (SyncEngine.inv_iff_of_unsynced hp).mp hs
  have hse := atBoundary_se_of_idle h lowered s (by rw [hp]; decide) (by rw [hp]; decide)
  have hlt := hcall.boundary_toNat_lt
  have hstart : countdownStart.toNat % 2 = 1 ∧ 3 ≤ countdownStart.toNat ∧ countdownStart.toNat ≤ 241 := by decide
  obtain ⟨_, _, hact⟩ | ⟨_, hpair, hact⟩ | ⟨hq, _⟩ | ⟨hq, _⟩ | ⟨hq, _⟩ := act_cases pct' dbl (atBoundary h lowered s)
  · rw [hact, hse]
    exact (SyncEngine.inv_iff_of_unsynced (by exact hp)).mpr ⟨hlt, hflag, hzero, hpct, hbuf⟩
  · rw [hact]
    refine countdownStep_keeps_inv { atBoundary h lowered s with
      se.phase := .countingDown, se.countdown := countdownStart } rfl ?_
    exact (SyncEngine.inv_iff_of_countingDown rfl).mpr
      ⟨hlt, (housePairValid_iff _).mp hpair, hflag, hstart, hpct, by dsimp only; rw [hse, hbuf, List.length_replicate]⟩
  all_goals exact absurd (hp.symm.trans hq) (by decide)

theorem TimingCall.keeps_inv_of_countingDown (hcall : TimingCall s i pct dbl h lowered passed)
    (hp : s.se.phase = .countingDown) (hs : s.se.Inv s.cfg) (pct' : Byte) :
    (act pct' dbl (atBoundary h lowered s)).se.Inv s.cfg := by
  obtain ⟨_, hrest⟩ := (SyncEngine.inv_iff_of_countingDown hp).mp hs
  rw [act_of_countingDown _ _ (atBoundary h lowered s) hp]
  refine countdownStep_keeps_inv (atBoundary h lowered s) hp ?_
  exact (SyncEngine.inv_iff_of_countingDown (by exact hp)).mpr ⟨hcall.boundary_toNat_lt, hrest⟩

/-- Before the due boundary the final is still ahead; at it, the next steady send is at most 237 boundaries away (R37). -/
theorem TimingCall.keeps_inv_of_awaitingFinal (hcall : TimingCall s i pct dbl h lowered passed)
    (hp : s.se.phase = .awaitingFinal) (hs : s.se.Inv s.cfg) (pct' : Byte) (hpct' : pct'.toNat ≤ 100) :
    (act pct' dbl (atBoundary h lowered s)).se.Inv s.cfg := by
  obtain ⟨hh, hpair, hflag, ⟨hcount, hlow, hhigh⟩, hpct, hlen, hhead⟩ :=
    (SyncEngine.inv_iff_of_awaitingFinal hp).mp hs
  have hlt := hcall.boundary_toNat_lt
  have hbounds := hcall.lowered_bounds hh hlow hhigh
  by_cases hdue : s.se.ticksToFinal.toNat - lowered = h
  · rw [(hcall.act_of_final_due hp hdue pct').1]
    exact (SyncEngine.inv_iff_of_locked rfl).mpr ⟨hlt, hpair,
      ⟨hcount, hcall.gapIndex_bounds s.se⟩, hpct',
      overlay_encodeFrame_length _ _ _ _ _ (overlay_encodeFrame_length _ _ _ _ _ hlen), overlay_encodeFrame_head? ..⟩
  · have hindex := hcall.lowerIndex_bounds (t := s.se.ticksToFinal) hdue hbounds
    rw [hcall.act_of_final_not_due hp hdue, atBoundary_se_of_awaitingFinal h lowered s hp]
    exact (SyncEngine.inv_iff_of_awaitingFinal (by exact hp)).mpr
      ⟨hlt, hpair, hflag, ⟨hcount, hindex⟩, hpct, hlen, hhead⟩

theorem TimingCall.keeps_inv_of_locked (hcall : TimingCall s i pct dbl h lowered passed)
    (hp : s.se.phase = .locked) (hs : s.se.Inv s.cfg) (pct' : Byte) (hpct' : pct'.toNat ≤ 100) :
    (act pct' dbl (atBoundary h lowered s)).se.Inv s.cfg := by
  obtain ⟨hh, hpair, ⟨hcount, hlow, hhigh⟩, hpct, hlen, hhead⟩ := (SyncEngine.inv_iff_of_locked hp).mp hs
  have hlt := hcall.boundary_toNat_lt
  have hbounds := hcall.lowered_bounds hh hlow hhigh
  by_cases hdue : s.se.ticksToNextTx.toNat - lowered = h
  · obtain ⟨⟨_, hse⟩, _⟩ := hcall.act_of_steady_due hp hdue pct'
    rw [hse]
    exact (SyncEngine.inv_iff_of_locked (by exact hp)).mpr ⟨hlt, hpair,
      ⟨hcount, hcall.gapIndex_bounds s.se⟩, hpct',
      overlay_encodeFrame_length _ _ _ _ _ hlen, overlay_encodeFrame_head? ..⟩
  · have hindex := hcall.lowerIndex_bounds (t := s.se.ticksToNextTx) hdue hbounds
    rw [hcall.act_of_steady_not_due hp hdue, atBoundary_se_of_locked h lowered s hp]
    exact (SyncEngine.inv_iff_of_locked (by exact hp)).mpr
      ⟨hlt, hpair, ⟨hcount, hindex⟩, hpct, hlen, hhead⟩

/-- A timing call keeps the SyncEngine's invariant, in whatever phase it comes. -/
theorem TimingCall.keeps_inv (hcall : TimingCall s i pct dbl h lowered passed) (hs : s.se.Inv s.cfg) :
    (actAndRespond pct dbl (atBoundary h lowered s)).se.Inv s.cfg := by
  have hpct : (preparePct pct).toNat ≤ 100 := by
    rw [preparePct_toNat]
    exact min_le_right ..
  rw [actAndRespond_se]
  cases hp : s.se.phase with
  | unsynced => exact hcall.keeps_inv_of_unsynced hp hs _
  | countingDown => exact hcall.keeps_inv_of_countingDown hp hs _
  | awaitingFinal => exact hcall.keeps_inv_of_awaitingFinal hp hs _ hpct
  | locked => exact hcall.keeps_inv_of_locked hp hs _ hpct

end

end Sys2Proof.Machine
end

section
/-!
The aggregator's invariant (R44, R45, R48, R49): how each write of the slot table and of the thresholds keeps it.
-/
namespace Sys2Proof.Machine

/-! ### Unique ids -/

theorem occupied_iff (x : Slot) : x.occupied = true ↔ x.id ≠ emptyId := by
  simp only [Slot.occupied, bne_iff_ne]

/-- R49 item 1 by index. -/
theorem uniqueIds_iff (slots : List Slot) :
    UniqueIds slots ↔
      ∀ (i j : Nat) (x y : Slot), slots[i]? = some x → slots[j]? = some y → i < j →
        x.id ≠ emptyId → x.id ≠ y.id := by
  simp only [UniqueIds, List.pairwise_iff_getElem, occupied_iff]
  constructor
  · intro h i j x y hx hy hij
    obtain ⟨hi, rfl⟩ := List.getElem?_eq_some_iff.mp hx
    obtain ⟨hj, rfl⟩ := List.getElem?_eq_some_iff.mp hy
    exact h i j hi hj hij
  · intro h i j hi hj hij
    exact h i j _ _ (List.getElem?_eq_getElem hi) (List.getElem?_eq_getElem hj) hij

/-- An id other than the empty one stands in one slot only. -/
theorem UniqueIds.id_ne {slots : List Slot} (h : UniqueIds slots) {i j : Nat} {x y : Slot}
    (hx : slots[i]? = some x) (hy : slots[j]? = some y) (hij : i ≠ j) (hid : x.id ≠ emptyId) : y.id ≠ x.id := by
  rw [uniqueIds_iff] at h
  intro heq
  obtain hlt | hgt := Nat.lt_or_gt_of_ne hij
  · exact h i j x y hx hy hlt hid heq.symm
  · exact h j i y x hy hx hgt (heq ▸ hid) heq

/-- Writing one slot keeps the ids unique as long as no other slot holds the written id. -/
theorem UniqueIds.set {slots : List Slot} (h : UniqueIds slots) (k : Nat) (z : Slot)
    (hother : ∀ (j : Nat) (y : Slot), j ≠ k → slots[j]? = some y → y.id ≠ z.id) : UniqueIds (slots.set k z) := by
  rw [uniqueIds_iff] at h ⊢
  intro i j x y hx hy hij hid
  rw [List.getElem?_set] at hx hy
  by_cases hik : k = i
  · have hjk : k ≠ j := by omega
    rw [if_neg hjk] at hy
    obtain ⟨_, rfl⟩ : i < slots.length ∧ z = x := by simpa [hik] using hx
    exact (hother j y hjk.symm hy).symm
  · rw [if_neg hik] at hx
    by_cases hjk : k = j
    · obtain ⟨_, rfl⟩ : j < slots.length ∧ z = y := by simpa [hjk] using hy
      exact hother i x (Ne.symm hik) hx
    · rw [if_neg hjk] at hy
      exact h i j x y hx hy hij hid

/-- The slot a report goes to is the only one that may hold its id (R221). -/
theorem reportSlot_other_id_ne {ag : Aggregator} {id : Half} {pct : Byte} {k : Nat} (hu : UniqueIds ag.slots)
    (hid : id ≠ emptyId) (hslot : reportSlot ag id pct = some k) :
    ∀ (j : Nat) (y : Slot), j ≠ k → ag.slots[j]? = some y → y.id ≠ id := by
  intro j y hjk hy
  cases hfind : findId ag.slots id with
  | some i =>
    obtain rfl : i = k := by simpa [reportSlot, hfind] using hslot
    obtain ⟨x, hx, rfl, _⟩ := findId_eq_some ag.slots id i hfind
    exact hu.id_ne hx hy hjk.symm hid
  | none => exact (findId_eq_none ag.slots id).mp hfind y (List.mem_of_getElem? hy)

/-! ### Each write -/

/-- A report is admitted with a percent of at most 100, and lives 60 ticks (R220, R225). -/
theorem Aggregator.Inv.occupy {s : State} (h : s.ag.Inv) {id : Half} {pct : Byte} {k : Nat} (hid : id ≠ emptyId)
    (hpct : pct.toNat ≤ 100) (hslot : reportSlot s.ag id pct = some k) : (occupy k id pct s).ag.Inv := by
  obtain ⟨hlen, hunique, hslots, hthresholds⟩ := h
  refine ⟨by rw [occupy_ag_slots, List.length_set, hlen],
    hunique.set k _ (reportSlot_other_id_ne hunique hid hslot), fun x hx => ?_, hthresholds⟩
  rw [occupy_ag_slots] at hx
  obtain hold | rfl := List.mem_or_eq_of_mem_set hx
  · exact hslots x hold
  · have hocc : ({ id := id, ticksUntilOff := liveTicks, percentOpen := pct } : Slot).occupied = true :=
      (occupied_iff _).mpr hid
    have hlive : liveTicks.toInt ≤ 60 := by decide
    exact ⟨fun _ => ⟨hpct, hlive⟩, fun hempty => by rw [hocc] at hempty; cases hempty⟩

theorem tickSlot_id (x : Slot) : (tickSlot x).id = x.id ∨ (tickSlot x).id = emptyId := by
  obtain ⟨_, h⟩ | ⟨_, _, h⟩ | ⟨_, _, _, h⟩ := tickSlot_cases x <;> rw [h]
  · exact .inl rfl
  · exact .inr rfl
  · exact .inl rfl

theorem tickSlot_inv {x : Slot} (hx : x.Inv) : (tickSlot x).Inv := by
  obtain ⟨_, h⟩ | ⟨_, _, h⟩ | ⟨hocc, _, hcount, h⟩ := tickSlot_cases x
  · rwa [h]
  · rw [h]
    decide
  · obtain ⟨hpct, hlive⟩ := hx.1 hocc
    have hocc' : (tickSlot x).occupied = true := by rw [h]; exact hocc
    have hpct' : (tickSlot x).percentOpen = x.percentOpen := by rw [h]
    exact ⟨fun _ => ⟨hpct' ▸ hpct, by omega⟩, fun hempty => by rw [hocc'] at hempty; cases hempty⟩

/-- A tick frees slots and keeps the ids of the others (R227). -/
theorem UniqueIds.map_tickSlot {slots : List Slot} (h : UniqueIds slots) : UniqueIds (slots.map tickSlot) := by
  refine List.pairwise_map.mpr (List.Pairwise.imp (fun {x y} hxy hocc => ?_) h)
  rw [occupied_iff] at hocc
  obtain hx | hx := tickSlot_id x
  · rw [hx] at hocc ⊢
    obtain hy | hy := tickSlot_id y <;> rw [hy]
    · exact hxy ((occupied_iff x).mpr hocc)
    · exact hocc
  · exact absurd hx hocc

/-- The decision of a tick writes neither slots nor thresholds (R233). -/
theorem aggregatorTick_frame (cfg : Config) (ag : Aggregator) :
    (aggregatorTick cfg ag).slots = ag.slots.map tickSlot
    ∧ (aggregatorTick cfg ag).minIndividual = ag.minIndividual
    ∧ (aggregatorTick cfg ag).minAggregate = ag.minAggregate := by
  simp only [aggregatorTick]
  obtain ⟨_, _, h⟩ | ⟨_, h⟩ := applyHysteresis_cases cfg (desiredState (tickSlots ag)) (tickSlots ag) <;> rw [h] <;>
    exact ⟨rfl, rfl, rfl⟩

theorem Aggregator.Inv.aggregatorTick {ag : Aggregator} (h : ag.Inv) (cfg : Config) :
    (aggregatorTick cfg ag).Inv := by
  obtain ⟨hlen, hunique, hslots, hthresholds⟩ := h
  obtain ⟨heq, hind, hagg⟩ := aggregatorTick_frame cfg ag
  refine ⟨by rw [heq, List.length_map, hlen], heq ▸ hunique.map_tickSlot, fun x hx => ?_, ?_⟩
  · rw [heq] at hx
    obtain ⟨y, hy, rfl⟩ := List.mem_map.mp hx
    exact tickSlot_inv (hslots y hy)
  · unfold Aggregator.ThresholdsLegal
    rwa [hind, hagg]

/-- `Coerce` gives legal thresholds for any two bytes (R234). -/
theorem thresholdsLegal_of_coerce {ag : Aggregator} (a b : Byte) (hind : ag.minIndividual = coerceIndividual a)
    (hagg : ag.minAggregate = coerceAggregate a b) : ag.ThresholdsLegal := by
  unfold Aggregator.ThresholdsLegal
  rw [hind, hagg, coerceAggregate_toNat, coerceIndividual_toNat]
  exact ⟨le_min (le_max_right ..) (by decide), min_le_right .., le_min (le_max_right ..) (min_le_right ..),
    min_le_right ..⟩

end Sys2Proof.Machine
end

section
/-!
Proofs about the state (10_state.md): the values after reset (R55), the invariant of the block (R43, R49), the countdown of
R38, and what each instruction writes and reads (R50).
-/
namespace Sys2Proof.Machine

/-! ### Reset -/

/-- Settles O1. -/
theorem resetPutsEveryRegisterAtItsValue : Obligations.ResetPutsEveryRegisterAtItsValue := fun cfg =>
  ⟨rfl, rfl, rfl, rfl, rfl, coerceIndividual_toNat cfg.resetMinIndividual,
    coerceAggregate_toNat cfg.resetMinIndividual cfg.resetMinAggregate, rfl⟩

theorem SyncEngine.inv_reset (cfg : Config) : SyncEngine.reset.Inv cfg := by
  have hM := boundaries_cases cfg
  have hh : SyncEngine.reset.h.toNat = 0 := rfl
  exact (SyncEngine.inv_iff_of_unsynced rfl).mpr ⟨by omega, rfl, ⟨rfl, rfl, rfl⟩, rfl, rfl⟩

theorem Aggregator.inv_reset (cfg : Config) : (Aggregator.reset cfg).Inv := by
  have hunique : UniqueIds (List.replicate nSlots Slot.empty) := by decide
  have hslots : ∀ x ∈ List.replicate nSlots Slot.empty, x.Inv := by decide
  exact ⟨rfl, hunique, hslots, thresholdsLegal_of_coerce cfg.resetMinIndividual cfg.resetMinAggregate rfl rfl⟩

theorem State.inv_resetWith {cfg : Config} (hcfg : cfg.Legal) : (State.resetWith cfg).Inv :=
  ⟨hcfg, SyncEngine.inv_reset cfg, Aggregator.inv_reset cfg⟩

/-- Settles O3. -/
theorem resetSatisfiesTheInvariant : Obligations.ResetSatisfiesTheInvariant :=
  ⟨fun _ hcfg => State.inv_resetWith hcfg, State.inv_resetWith Config.delivered_legal⟩

/-! ### The invariant of the block -/

theorem decodeNoArgs_ok {i j : Instr} {args : List Byte} (h : decodeNoArgs i args = .ok j) : j = i := by
  cases args with
  | nil => exact (Except.ok.inj h).symm
  | cons => cases h

theorem decodeSyncArgs_ok {make : Byte → Bool → Instr} {args : List Byte} {j : Instr}
    (h : decodeSyncArgs make args = .ok j) : ∃ pct dbl, j = make pct dbl := by
  unfold decodeSyncArgs at h
  split at h
  · split at h
    · exact ⟨_, _, (Except.ok.inj h).symm⟩
    · cases h
  · cases h

theorem isRequest_of_ok {i j : Instr} (hi : i.isRequest = true)
    (h : (Except.ok i : Except Illegal Instr) = .ok j) : j.isRequest = true :=
  Except.ok.inj h ▸ hi

/-- No request packet is read as a frame kind (R90). -/
theorem decodePacket_isRequest {p : List Byte} {i : Instr} (h : decodePacket p = .ok i) : i.isRequest = true := by
  unfold decodePacket at h
  split at h
  · cases h
  · split at h
    · split at h
      · exact isRequest_of_ok rfl h
      · cases h
    · split at h
      · split at h
        · exact isRequest_of_ok rfl h
        · cases h
      · cases h
    · obtain ⟨_, _, rfl⟩ := decodeSyncArgs_ok h
      rfl
    · obtain ⟨_, _, rfl⟩ := decodeSyncArgs_ok h
      rfl
    · exact decodeNoArgs_ok h ▸ rfl
    · split at h
      · exact isRequest_of_ok rfl h
      · cases h
    · exact decodeNoArgs_ok h ▸ rfl
    · exact decodeNoArgs_ok h ▸ rfl
    · exact decodeNoArgs_ok h ▸ rfl
    · split at h
      · exact isRequest_of_ok rfl h
      · cases h
    · exact decodeNoArgs_ok h ▸ rfl
    · split at h
      · exact isRequest_of_ok rfl h
      · cases h
    · exact decodeNoArgs_ok h ▸ rfl
    · cases h

/-- The writes of R188 leave no demand on the house codes. -/
theorem syncReset_keeps_inv (s : State) (hh : s.se.h.toNat < s.cfg.boundaries) : (syncReset s).se.Inv s.cfg :=
  (SyncEngine.inv_iff_of_unsynced rfl).mpr ⟨hh, rfl, ⟨rfl, rfl, rfl⟩, rfl, rfl⟩

/-- Every request keeps the invariant. A frame kind executed by itself need not, but no step executes one. -/
theorem exec_keeps_inv {s t : State} {i : Instr} (hreq : i.isRequest = true) (hs : s.Inv) (h : exec i s = .next t) :
    t.Inv := by
  obtain ⟨hcfg, hse, hag⟩ := hs
  by_cases hread : isReadOnly i = true
  · obtain ⟨_, rfl⟩ := exec_readOnly h hread
    exact ⟨hcfg, hse, hag⟩
  cases i with
  | syncFirst | syncNext =>
    obtain ⟨_, _, _, _, rfl⟩ | ⟨_, _, _, _, _, hcall, rfl⟩ := exec_timing h rfl
    · exact ⟨hcfg, hse, hag⟩
    · obtain ⟨hcfg', _, _, _, hag'⟩ := hcall.frame
      rw [State.Inv, hcfg', hag']
      exact ⟨hcfg, hcall.keeps_inv hse, hag⟩
  | syncReset =>
    obtain rfl := eq_of_exec rfl h
    exact ⟨hcfg, syncReset_keeps_inv s hse.1, hag⟩
  | setHouseCode hc1 hc2 =>
    obtain ⟨_, hr⟩ | ⟨_, hr⟩ := exec_setHouseCode_cases hc1 hc2 s <;> obtain rfl := eq_of_exec hr h
    · exact ⟨hcfg, hse, hag⟩
    · exact ⟨hcfg, syncReset_keeps_inv { s with se.hc1 := hc1, se.hc2 := hc2 } hse.1, hag⟩
  | submitReport id pct =>
    obtain ⟨_, hr⟩ | ⟨hid, hpct, k, hslot, hr⟩ := execSubmitReport_cases id pct s <;> obtain rfl := eq_of_exec hr h
    · exact ⟨hcfg, hse, hag⟩
    · exact ⟨hcfg, hse, hag.occupy hid hpct hslot⟩
  | aggTick =>
    obtain rfl := eq_of_exec rfl h
    exact ⟨hcfg, hse, hag.aggregatorTick s.cfg⟩
  | setThresholds a b =>
    obtain rfl := eq_of_exec rfl h
    obtain ⟨hlen, hunique, hslots, _⟩ := hag
    exact ⟨hcfg, hse, hlen, hunique, hslots, thresholdsLegal_of_coerce a b rfl rfl⟩
  | encode | decode | isLocked | getCommandedPct | getOpenFlag | isCallingForHeat => exact absurd rfl hread
  | valveSet | syncCountdown | syncFinal => cases hreq

/-- Settles O4: a step is idle, refuses a packet, or executes a request. -/
theorem everyStepKeepsTheInvariant : Obligations.EveryStepKeepsTheInvariant := by
  intro s t hs hstep
  obtain ⟨_, h⟩ | ⟨_, rest, _, _, _, h⟩ | ⟨_, rest, i, _, hdecode, h⟩ := step_cases s <;> rw [h] at hstep
  · obtain rfl := Host.Outcome.next.inj hstep
    exact hs
  · obtain rfl := Host.Outcome.next.inj hstep
    exact hs
  · exact exec_keeps_inv (s := takeRequest rest s) (decodePacket_isRequest hdecode) hs hstep

/-- The environment writes no register (R306), so the invariant holds along every run. -/
theorem Reachable.inv {s : State} (h : Reachable s) : s.Inv := by
  induction h with
  | reset cfg hcfg => exact State.inv_resetWith hcfg
  | arrive _ _ _ _ ih => exact ih
  | step s t _ hstep ih => exact everyStepKeepsTheInvariant s t ih hstep

/-- Settles O5: R43 and R49 are parts of the invariant. -/
theorem reachableStatesSatisfyTheSpecInvariants : Obligations.ReachableStatesSatisfyTheSpecInvariants := by
  intro s hreach
  obtain ⟨_, ⟨_, _, hpair, hflag, ⟨_, hcounting, hawaiting, hlocked, _⟩, _⟩, _, hunique, hslots, hthresholds⟩ :=
    hreach.inv
  refine ⟨hcounting, fun hp => (hawaiting hp).2, fun hp => (hlocked hp).2.1.le, hpair, hflag, ?_, ?_, hthresholds⟩
  · intro i j x y hx hy hij hxid _
    exact (uniqueIds_iff _).mp hunique i j x y hx hy hij hxid
  · exact fun x hx hid => (hslots x hx).1 ((occupied_iff x).mpr hid)

end Sys2Proof.Machine
end

section
/-!
Proofs about the state (10_state.md), continued: the half-seconds until the event (R38), and what each instruction writes and
reads (R50).
-/
namespace Sys2Proof.Machine

/-! ### The half-seconds until the event -/

section
variable {s : State} {i : Instr} {pct : Byte} {dbl : Bool} {h lowered passed : Nat}

/-- An event is due in this call iff the boundaries that pass use up its half-seconds (R38). -/
theorem TimingCall.due_iff (hcall : TimingCall s i pct dbl h lowered passed) (hh : s.se.h.toNat < s.cfg.boundaries)
    {due : Nat} (hlow : s.se.h.toNat < due) : due - lowered = h ↔ due - s.se.h.toNat ≤ passed := by
  obtain ⟨_, rfl, rfl, rfl⟩ | ⟨_, rfl, _, rfl, rfl⟩ := hcall
  · rw [Nat.sub_eq_zero_iff_le]
    exact (Nat.sub_le_sub_iff_right hh.le).symm
  · rw [Nat.sub_zero, Nat.sub_le_iff_le_add']
    exact ⟨le_of_eq, fun hle => le_antisymm hle hlow⟩

/-- Lowering the index and moving `SE.h` take away together what has passed (R38). -/
theorem TimingCall.remaining_eq (hcall : TimingCall s i pct dbl h lowered passed)
    (hh : s.se.h.toNat < s.cfg.boundaries) (due : Nat) : due - lowered - h = due - s.se.h.toNat - passed := by
  rw [Nat.sub_sub, Nat.sub_sub, hcall.passed_eq hh, Nat.add_comm]

theorem TimingCall.final_falls_with_time (hcall : TimingCall s i pct dbl h lowered passed) (hs : s.se.Inv s.cfg)
    (hp : s.se.phase = .awaitingFinal) :
    ∃ t : State, exec i s = .next t
      ∧ (passed < s.se.ticksToFinal.toNat - s.se.h.toNat →
          t.se.phase = .awaitingFinal ∧ t.io.events = s.io.events
          ∧ t.se.ticksToFinal.toNat - t.se.h.toNat = s.se.ticksToFinal.toNat - s.se.h.toNat - passed)
      ∧ (s.se.ticksToFinal.toNat - s.se.h.toNat ≤ passed →
          t.se.phase = .locked ∧ t.io.events.length = s.io.events.length + 1) := by
  obtain ⟨hh, _, _, ⟨_, hlow, _⟩, _⟩ := (SyncEngine.inv_iff_of_awaitingFinal hp).mp hs
  have hiff := hcall.due_iff hh hlow
  refine ⟨_, hcall.exec_eq, fun hlt => ?_, fun hle => ?_⟩ <;> rw [actAndRespond_se, actAndRespond_io_events]
  · have hwait : s.se.ticksToFinal.toNat - lowered ≠ h := fun hdue => (hiff.mp hdue).not_gt hlt
    rw [hcall.act_of_final_not_due hp hwait, atBoundary_io, atBoundary_se_of_awaitingFinal h lowered s hp]
    refine ⟨hp, rfl, ?_⟩
    rw [lowerIndex_toNat, hcall.boundary_toNat]
    exact hcall.remaining_eq hh _
  · obtain ⟨hse, hevents⟩ := hcall.act_of_final_due hp (hiff.mpr hle) (preparePct pct)
    rw [hse]
    exact ⟨rfl, hevents⟩

theorem TimingCall.steady_falls_with_time (hcall : TimingCall s i pct dbl h lowered passed) (hs : s.se.Inv s.cfg)
    (hp : s.se.phase = .locked) :
    ∃ t : State, exec i s = .next t ∧ t.se.phase = .locked
      ∧ (passed < s.se.ticksToNextTx.toNat - s.se.h.toNat →
          t.io.events = s.io.events
          ∧ t.se.ticksToNextTx.toNat - t.se.h.toNat = s.se.ticksToNextTx.toNat - s.se.h.toNat - passed)
      ∧ (s.se.ticksToNextTx.toNat - s.se.h.toNat ≤ passed →
          t.io.events.length = s.io.events.length + 1
          ∧ t.se.ticksToNextTx.toNat - t.se.h.toNat = steadyPeriod s.se) := by
  obtain ⟨hh, _, ⟨_, hlow, _⟩, _⟩ := (SyncEngine.inv_iff_of_locked hp).mp hs
  have hiff := hcall.due_iff hh hlow
  refine ⟨_, hcall.exec_eq, ?_⟩
  rw [actAndRespond_se, actAndRespond_io_events]
  by_cases hdue : s.se.ticksToNextTx.toNat - lowered = h
  · obtain ⟨⟨_, hse⟩, hevents⟩ := hcall.act_of_steady_due hp hdue (preparePct pct)
    rw [hse]
    refine ⟨hp, fun hlt => absurd (hiff.mp hdue) hlt.not_ge, fun _ => ⟨hevents, ?_⟩⟩
    rw [hcall.gapIndex_toNat, hcall.boundary_toNat]
    exact Nat.add_sub_cancel_left h _
  · rw [hcall.act_of_steady_not_due hp hdue, atBoundary_io, atBoundary_se_of_locked h lowered s hp]
    refine ⟨hp, fun _ => ⟨rfl, ?_⟩, fun hle => absurd (hiff.mpr hle) hdue⟩
    rw [lowerIndex_toNat, hcall.boundary_toNat]
    exact hcall.remaining_eq hh _

end

/-- Settles O27. -/
theorem halfSecondsUntilTheEventFallWithTime : Obligations.HalfSecondsUntilTheEventFallWithTime :=
  fun _ _ _ _ _ _ _ hcall hs => ⟨hcall.final_falls_with_time hs, hcall.steady_falls_with_time hs⟩

/-! ### What each instruction writes -/

theorem exec_submitReport_writes (id : Half) (pct : Byte) (s : State) :
    ∃ (r : List Byte) (slots : List Slot),
      exec (.submitReport id pct) s = .next (respondOk r { s with ag.slots := slots }) := by
  obtain ⟨_, h⟩ | ⟨_, _, k, _, h⟩ := execSubmitReport_cases id pct s
  · exact ⟨_, s.ag.slots, h⟩
  · exact ⟨_, _, h⟩

/-- A frame kind executed by itself writes the transmit buffer, and VALVE_SET the commanded percent (R40, R42; log
entry 4). -/
theorem exec_frameKind {s t : State} {i : Instr} (h : exec i s = .next t) (hi : i.isRequest = false) :
    ∃ (buffer : List Byte) (percent : Byte),
      t = { s with se.txBuffer := buffer, se.commandedPercent := percent }
      ∧ ((∀ pct : Byte, i ≠ .valveSet pct) → percent = s.se.commandedPercent) := by
  cases i with
  | valveSet pct =>
    obtain rfl : t = composeValveSet pct s := eq_of_exec rfl h
    exact ⟨_, pct, by dsimp only [composeValveSet, compose], fun hne => absurd rfl (hne pct)⟩
  | syncCountdown c =>
    obtain rfl : t = compose s.cfg.opcSyncCountdown c s := eq_of_exec rfl h
    exact ⟨_, s.se.commandedPercent, by dsimp only [compose], fun _ => rfl⟩
  | syncFinal =>
    obtain rfl : t = compose s.cfg.opcSyncFinal 0 s := eq_of_exec rfl h
    exact ⟨_, s.se.commandedPercent, by dsimp only [compose], fun _ => rfl⟩
  | _ => cases hi

/-- A clause about the instructions that a test rejects says nothing of one that it accepts. -/
theorem vacuous {test : Bool} (accepted : test = true) {P : Prop} (rejected : test = false) : P :=
  Bool.noConfusion (accepted.symm.trans rejected)

/-- Settles O37: by the state that each class of instructions gives, a clause holds at sight, or it does not speak of that
class. -/
theorem everyInstructionLeavesTheOtherRegisters : Obligations.EveryInstructionLeavesTheOtherRegisters := by
  intro s t i h
  by_cases hread : isReadOnly i = true
  · obtain ⟨r, rfl⟩ := exec_readOnly h hread
    exact ⟨rfl, rfl, fun _ => ⟨rfl, rfl⟩, fun _ => ⟨rfl, rfl, rfl, rfl, rfl⟩, fun _ _ => rfl, fun _ _ => rfl,
      fun _ => ⟨rfl, rfl, rfl, rfl⟩, fun _ _ => rfl, fun _ => ⟨rfl, rfl⟩, fun _ => ⟨rfl, rfl⟩⟩
  by_cases hkind : i.isRequest = false
  · obtain ⟨_, _, rfl, hpercent⟩ := exec_frameKind h hkind
    exact ⟨rfl, rfl, fun _ => ⟨rfl, rfl⟩, fun _ => ⟨rfl, rfl, rfl, rfl, rfl⟩, fun _ => hpercent,
      fun _ hreq => vacuous hreq hkind, fun _ => ⟨rfl, rfl, rfl, rfl⟩, fun _ _ => rfl, fun _ => ⟨rfl, rfl⟩,
      fun _ => ⟨rfl, rfl⟩⟩
  cases i with
  | syncFirst | syncNext =>
    have hframe : TimingFrame s t := by
      obtain ⟨_, _, _, _, rfl⟩ | ⟨_, _, _, _, _, hcall, rfl⟩ := exec_timing h rfl
      · exact ⟨rfl, rfl, rfl, rfl, rfl⟩
      · exact hcall.frame
    obtain ⟨hcfg, hreq, hhc1, hhc2, hag⟩ := hframe
    rw [hag]
    exact ⟨hcfg, hreq, fun _ => ⟨hhc1, hhc2⟩, vacuous rfl, vacuous rfl, vacuous rfl, vacuous rfl, fun _ _ => rfl,
      fun _ => ⟨rfl, rfl⟩, fun _ => ⟨rfl, rfl⟩⟩
  | syncReset =>
    obtain rfl := eq_of_exec rfl h
    exact ⟨rfl, rfl, fun _ => ⟨rfl, rfl⟩, vacuous rfl, vacuous rfl, vacuous rfl, fun _ => ⟨rfl, rfl, rfl, rfl⟩,
      fun _ _ => rfl, fun _ => ⟨rfl, rfl⟩, fun _ => ⟨rfl, rfl⟩⟩
  | setHouseCode hc1 hc2 =>
    obtain ⟨_, hr⟩ | ⟨_, hr⟩ := exec_setHouseCode_cases hc1 hc2 s <;> obtain rfl := eq_of_exec hr h <;>
      exact ⟨rfl, rfl, fun hne => absurd rfl (hne hc1 hc2), vacuous rfl, vacuous rfl, vacuous rfl,
        fun _ => ⟨rfl, rfl, rfl, rfl⟩, fun _ _ => rfl, fun _ => ⟨rfl, rfl⟩, fun _ => ⟨rfl, rfl⟩⟩
  | submitReport id pct =>
    obtain ⟨r, slots, hr⟩ := exec_submitReport_writes id pct s
    obtain rfl := eq_of_exec hr h
    exact ⟨rfl, rfl, fun _ => ⟨rfl, rfl⟩, fun _ => ⟨rfl, rfl, rfl, rfl, rfl⟩, fun _ _ => rfl, fun _ _ => rfl,
      fun _ => ⟨rfl, rfl, rfl, rfl⟩, fun hne => absurd rfl (hne id pct), fun _ => ⟨rfl, rfl⟩, fun _ => ⟨rfl, rfl⟩⟩
  | aggTick =>
    obtain rfl := eq_of_exec rfl h
    obtain ⟨_, hthresholds⟩ := aggregatorTick_frame s.cfg s.ag
    exact ⟨rfl, rfl, fun _ => ⟨rfl, rfl⟩, fun _ => ⟨rfl, rfl, rfl, rfl, rfl⟩, fun _ _ => rfl, fun _ _ => rfl,
      fun _ => ⟨rfl, rfl, rfl, rfl⟩, fun _ hne => absurd rfl hne, fun hne => absurd rfl hne, fun _ => hthresholds⟩
  | setThresholds a b =>
    obtain rfl := eq_of_exec rfl h
    exact ⟨rfl, rfl, fun _ => ⟨rfl, rfl⟩, fun _ => ⟨rfl, rfl, rfl, rfl, rfl⟩, fun _ _ => rfl, fun _ _ => rfl,
      fun _ => ⟨rfl, rfl, rfl, rfl⟩, fun _ _ => rfl, fun _ => ⟨rfl, rfl⟩, fun hne => absurd rfl (hne a b)⟩
  | encode | decode | isLocked | getCommandedPct | getOpenFlag | isCallingForHeat => exact absurd rfl hread
  | valveSet | syncCountdown | syncFinal => exact absurd rfl hkind

/-! ### What each instruction reads -/

/-- The state with another aggregator. -/
def replaceAg (g : Aggregator) (s : State) : State := { s with ag := g }

section
variable (g : Aggregator) (s : State)

@[simp] theorem replaceAg_cfg : (replaceAg g s).cfg = s.cfg := rfl

@[simp] theorem replaceAg_se : (replaceAg g s).se = s.se := rfl

@[simp] theorem replaceAg_io : (replaceAg g s).io = s.io := rfl

theorem drawSendOk_replaceAg :
    drawSendOk (replaceAg g s) = ((drawSendOk s).1, replaceAg g (drawSendOk s).2) := by
  unfold drawSendOk
  rw [replaceAg_io]
  split <;> rfl

theorem drawSends_replaceAg (n : Nat) :
    drawSends n (replaceAg g s) = ((drawSends n s).1, replaceAg g (drawSends n s).2) := by
  induction n generalizing s with
  | zero => rfl
  | succ n ih => simp only [drawSends, drawSendOk_replaceAg, ih]

theorem transmit_replaceAg (len : Nat) (copies : Copies) :
    transmit len copies (replaceAg g s) =
      ((transmit len copies s).1, replaceAg g (transmit len copies s).2) := by
  simp only [transmit, drawSends_replaceAg]
  rfl

theorem compose_replaceAg (op ext : Byte) :
    compose op ext (replaceAg g s) = replaceAg g (compose op ext s) := rfl

theorem composeValveSet_replaceAg (pct : Byte) :
    composeValveSet pct (replaceAg g s) = replaceAg g (composeValveSet pct s) := rfl

theorem sendFrame_replaceAg (op ext : Byte) (copies : Copies) :
    sendFrame op ext copies (replaceAg g s) =
      ((sendFrame op ext copies s).1, replaceAg g (sendFrame op ext copies s).2) := by
  simp only [sendFrame, compose_replaceAg, transmit_replaceAg, composedLength, replaceAg_se]

theorem startHandshake_replaceAg : startHandshake (replaceAg g s) = replaceAg g (startHandshake s) := by
  unfold startHandshake
  rw [replaceAg_se]
  split <;> rfl

theorem countdownStep_replaceAg : countdownStep (replaceAg g s) = replaceAg g (countdownStep s) := by
  have hadvance : ∀ u : State, countdownAdvance (replaceAg g u) = replaceAg g (countdownAdvance u) := by
    intro u
    by_cases hone : u.se.countdown - 2 = 1 <;> simp only [countdownAdvance, replaceAg_se, hone] <;> rfl
  have hsend : countdownSend (replaceAg g s) = replaceAg g (countdownSend s) := by
    simp only [countdownSend, replaceAg_se, replaceAg_cfg, sendFrame_replaceAg]
    split <;> rfl
  simp only [countdownStep, replaceAg_se, hsend, hadvance]
  split <;> rfl

theorem finalStep_replaceAg (pct : Byte) : finalStep pct (replaceAg g s) = replaceAg g (finalStep pct s) := by
  simp only [finalStep, replaceAg_se, replaceAg_cfg, sendFrame_replaceAg]
  split <;> rfl

theorem steadyStep_replaceAg (pct : Byte) (dbl : Bool) :
    steadyStep pct dbl (replaceAg g s) = replaceAg g (steadyStep pct dbl s) := by
  simp only [steadyStep, replaceAg_se, replaceAg_cfg, composeValveSet_replaceAg, composedLength, transmit_replaceAg]
  split <;> rfl

theorem act_replaceAg (pct : Byte) (dbl : Bool) : act pct dbl (replaceAg g s) = replaceAg g (act pct dbl s) := by
  have hstart : actStart (replaceAg g s) = replaceAg g (actStart s) := by
    cases hp : s.se.phase <;> simp only [actStart, replaceAg_se, hp, startHandshake_replaceAg]
  simp only [act, hstart, replaceAg_se]
  cases (actStart s).se.phase with
  | unsynced => rfl
  | countingDown => exact countdownStep_replaceAg ..
  | awaitingFinal => exact finalStep_replaceAg ..
  | locked => exact steadyStep_replaceAg ..

theorem atBoundary_replaceAg (h lowered : Nat) :
    atBoundary h lowered (replaceAg g s) = replaceAg g (atBoundary h lowered s) := rfl

theorem actAndRespond_replaceAg (pct : Byte) (dbl : Bool) :
    actAndRespond pct dbl (replaceAg g s) = replaceAg g (actAndRespond pct dbl s) := by
  simp only [actAndRespond, act_replaceAg]
  rfl

end

/-- Neither the codec nor the SyncEngine reads the aggregator. -/
theorem exec_replaceAg {s t : State} {i : Instr} (h : exec i s = .next t) (hi : isAggregatorRequest i = false)
    (g : Aggregator) : exec i (replaceAg g s) = .next (replaceAg g t) := by
  cases i with
  | encode | decode | isLocked | getCommandedPct | getOpenFlag | syncReset =>
    obtain rfl := eq_of_exec rfl h
    rfl
  | syncFirst | syncNext =>
    obtain ⟨_, _, hi, hlast, rfl⟩ | ⟨_, _, _, _, _, hcall, rfl⟩ := exec_timing h rfl
    · rw [hi]
      exact exec_syncNext_of_last (s := replaceAg g s) hlast _ _
    · have hcall' : TimingCall (replaceAg g s) _ _ _ _ _ _ := hcall
      rw [hcall'.exec_eq, atBoundary_replaceAg, actAndRespond_replaceAg]
  | setHouseCode hc1 hc2 =>
    obtain ⟨hsame, hr⟩ | ⟨hnew, hr⟩ := exec_setHouseCode_cases hc1 hc2 s <;> obtain rfl := eq_of_exec hr h
    · exact if_neg (not_not_intro hsame)
    · exact if_pos hnew
  | valveSet pct =>
    obtain rfl : t = composeValveSet pct s := eq_of_exec rfl h
    exact congrArg Host.Outcome.next (composeValveSet_replaceAg g s pct)
  | syncCountdown c =>
    obtain rfl : t = compose s.cfg.opcSyncCountdown c s := eq_of_exec rfl h
    exact congrArg Host.Outcome.next (compose_replaceAg g s _ c)
  | syncFinal =>
    obtain rfl : t = compose s.cfg.opcSyncFinal 0 s := eq_of_exec rfl h
    exact congrArg Host.Outcome.next (compose_replaceAg g s _ 0)
  | submitReport | aggTick | setThresholds | isCallingForHeat => cases hi

/-- The aggregator does not read the SyncEngine. -/
theorem exec_replaceSe {s t : State} {i : Instr} (h : exec i s = .next t) (hi : isAggregatorRequest i = true)
    (e : SyncEngine) : exec i { s with se := e } = .next { t with se := e } := by
  cases i with
  | submitReport id pct =>
    simp only [exec, execSubmitReport] at h ⊢
    split_ifs at h ⊢
    · obtain rfl := Host.Outcome.next.inj h
      rfl
    · cases hslot : reportSlot s.ag id pct <;> simp only [hslot] at h ⊢ <;> obtain rfl := Host.Outcome.next.inj h <;> rfl
  | aggTick | setThresholds | isCallingForHeat =>
    obtain rfl := eq_of_exec rfl h
    rfl
  | _ => cases hi

/-- Settles O38: replacing the aggregator commutes with each operation of the SyncEngine and the codec, and replacing the
SyncEngine with each instruction of the aggregator. -/
theorem componentsDoNotReadEachOther : Obligations.ComponentsDoNotReadEachOther := by
  intro s t i h
  refine ⟨exec_replaceAg h, exec_replaceSe h, ?_⟩
  rintro hc1 hc2 opcode ext bytes (rfl | rfl) g e <;> obtain rfl := eq_of_exec rfl h <;> rfl

/-! ### A step with no request -/

/-- Settles O42. -/
theorem aStepWithoutARequestChangesNothing : Obligations.AStepWithoutARequestChangesNothing := by
  intro s hempty
  obtain ⟨_, h⟩ | ⟨p, rest, _, hreq, _, _⟩ | ⟨p, rest, _, hreq, _, _⟩ := step_cases s
  · exact h
  all_goals
    rw [hempty] at hreq
    cases hreq

end Sys2Proof.Machine
end

section
/-!
Proofs about the requests of 20_memory.md: which of them change nothing or nothing more when they are repeated (R74), and what
a step does with the packet at the head of the port (R75).
-/
namespace Sys2Proof.Machine

/-! ### Requests that change nothing, or nothing more -/

/-- None of the six reads the responses given before, so the second answer is the first (R74). -/
theorem exec_readOnly_twice (s : State) {i : Instr} (hi : isReadOnly i = true) : ∃ r : List Byte,
    exec i s = .next (respond r s) ∧ exec i (respond r s) = .next (respond r (respond r s)) := by
  cases i with
  | encode | decode | isLocked | getCommandedPct | getOpenFlag | isCallingForHeat => exact ⟨_, rfl, rfl⟩
  | _ => cases hi

/-- SYNC_RESET writes constants, or what stands there already (R188). -/
theorem exec_syncReset_twice (s : State) : ∃ t u : State,
    exec .syncReset s = .next t ∧ exec .syncReset t = .next u
      ∧ u.se = t.se ∧ u.ag = t.ag ∧ u.io.events = s.io.events :=
  ⟨_, _, rfl, rfl, rfl, rfl, rfl⟩

theorem exec_setHouseCode_stored (s : State) :
    exec (.setHouseCode s.se.hc1 s.se.hc2) s = .next (respondOk [] s) := by
  obtain ⟨_, h⟩ | ⟨hnew, _⟩ := exec_setHouseCode_cases s.se.hc1 s.se.hc2 s
  · exact h
  · exact absurd rfl hnew

/-- The thresholds that SET_THRESHOLDS writes depend on its arguments alone (R234). -/
theorem exec_setThresholds_twice (s : State) (a b : Byte) : ∃ t u : State,
    exec (.setThresholds a b) s = .next t ∧ exec (.setThresholds a b) t = .next u
      ∧ u.se = t.se ∧ u.ag = t.ag ∧ u.io.events = s.io.events :=
  ⟨_, _, rfl, rfl, rfl, rfl, rfl⟩

/-! ### Requests of which a repetition changes more

Each has a state that the model runs twice, and the register in which the two results differ. -/

/-- A machine that awaits its sync-final, due at index 9: not within the next two minor cycles of 4 boundaries. -/
def finalDueAtNine : State :=
  { State.reset with se.phase := .awaitingFinal, se.countdown := 1, se.ticksToFinal := 9 }

/-- Two SYNC_FIRST in a row lower the due index from 9 to 5 and from 5 to 1 (R171). -/
theorem syncFirst_twice_lowers_twice : ∃ t u : State,
    exec (.syncFirst 0 false) finalDueAtNine = .next t ∧ exec (.syncFirst 0 false) t = .next u
      ∧ t.se.ticksToFinal = 5 ∧ u.se.ticksToFinal = 1 :=
  ⟨_, _, rfl, rfl, rfl, rfl⟩

/-- Two SYNC_NEXT in a row are made at the boundaries 1 and 2 (R172). -/
theorem syncNext_twice_moves_twice : ∃ t u : State,
    exec (.syncNext 0 false) State.reset = .next t ∧ exec (.syncNext 0 false) t = .next u
      ∧ t.se.h = 1 ∧ u.se.h = 2 :=
  ⟨_, _, rfl, rfl, rfl, rfl⟩

/-- With no report in the table the hysteresis counter goes on at every tick (R233). -/
theorem aggTick_twice_counts_twice : ∃ t u : State,
    exec .aggTick State.reset = .next t ∧ exec .aggTick t = .next u
      ∧ t.ag.ticksInCurrentState = 1 ∧ u.ag.ticksInCurrentState = 2 :=
  ⟨_, _, rfl, rfl, rfl, rfl⟩

/-- A valid report of an id that the table holds is written to that id's slot (R221, R222). -/
theorem exec_submitReport_of_findId {s : State} {id : Half} {pct : Byte} {k : Nat} (hid : id ≠ emptyId)
    (hpct : pct.toNat ≤ 100) (hfind : findId s.ag.slots id = some k) :
    exec (.submitReport id pct) s = .next (respondOk [1] (occupy k id pct s)) := by
  have hslot : reportSlot s.ag id pct = some k := by rw [reportSlot, hfind]
  obtain ⟨hreject, _⟩ | ⟨_, _, j, hj, h⟩ := execSubmitReport_cases id pct s
  · rw [hslot] at hreject
    obtain h | h | h := hreject
    · exact absurd h hid
    · exact absurd h hpct.not_gt
    · cases h
  · obtain rfl := Option.some.inj (hslot.symm.trans hj)
    exact h

/-- The slot table after reset with a report of 80 percent from valve 1 in its first slot. -/
def tableOfOne (ticksUntilOff : Byte) : List Slot :=
  { id := 1, ticksUntilOff := ticksUntilOff, percentOpen := 80 } :: List.replicate 7 Slot.empty

/-- A report that comes again after a tick puts its slot back from 59 ticks to 60 (R220, R227). -/
theorem submitReport_after_tick_renews : ∃ t u v : State,
    exec (.submitReport 1 80) State.reset = .next t ∧ exec .aggTick t = .next u
      ∧ exec (.submitReport 1 80) u = .next v
      ∧ u.ag.slots = tableOfOne 59 ∧ v.ag.slots = tableOfOne 60 := by
  obtain ⟨t, ht, hslots⟩ : ∃ t, exec (.submitReport 1 80) State.reset = .next t ∧ t.ag.slots = tableOfOne 60 :=
    ⟨_, rfl, rfl⟩
  obtain ⟨u, hu, htick⟩ : ∃ u, exec .aggTick t = .next u ∧ u.ag.slots = t.ag.slots.map tickSlot :=
    ⟨_, rfl, (aggregatorTick_frame t.cfg t.ag).left⟩
  rw [hslots] at htick
  have hv := exec_submitReport_of_findId (id := 1) (pct := 80) (k := 0) (s := u) (by decide) (by decide)
    (by rw [htick]; rfl)
  refine ⟨t, u, _, ht, hu, hv, htick, ?_⟩
  rw [respondOk_ag, occupy_ag_slots, htick]
  rfl

/-- Settles O36. -/
theorem readOnlyAndIdempotentRequests : Obligations.ReadOnlyAndIdempotentRequests := by
  refine ⟨fun s _ => exec_readOnly_twice s, exec_syncReset_twice,
    fun s => ⟨_, exec_setHouseCode_stored s, rfl, rfl, rfl⟩, exec_setThresholds_twice, ?_, ?_, ?_, ?_⟩
  · obtain ⟨t, u, ht, hu, htDue, huDue⟩ := syncFirst_twice_lowers_twice
    exact ⟨_, t, u, _, _, ht, hu, ne_of_apply_ne SyncEngine.ticksToFinal (by rw [htDue, huDue]; decide)⟩
  · obtain ⟨t, u, ht, hu, htH, huH⟩ := syncNext_twice_moves_twice
    exact ⟨_, t, u, _, _, ht, hu, ne_of_apply_ne SyncEngine.h (by rw [htH, huH]; decide)⟩
  · obtain ⟨t, u, ht, hu, htTicks, huTicks⟩ := aggTick_twice_counts_twice
    exact ⟨_, t, u, ht, hu, ne_of_apply_ne Aggregator.ticksInCurrentState (by rw [htTicks, huTicks]; decide)⟩
  · obtain ⟨t, u, v, ht, hu, hv, huSlots, hvSlots⟩ := submitReport_after_tick_renews
    exact ⟨_, t, u, v, _, _, ht, hu, hv, ne_of_apply_ne Aggregator.slots (by rw [huSlots, hvSlots]; decide)⟩

/-! ### A step and the packet at the head of the port -/

/-- Settles O41. -/
theorem aStepRunsTheDecodedInstruction : Obligations.AStepRunsTheDecodedInstruction := by
  intro s p rest i hreq hdecode
  obtain ⟨hempty, _⟩ | ⟨_, _, _, hreq', herror, _⟩ | ⟨_, _, _, hreq', hok, hstep⟩ := step_cases s
  · rw [hreq] at hempty
    cases hempty
  · obtain ⟨rfl, rfl⟩ := List.cons.inj (hreq.symm.trans hreq')
    rw [hdecode] at herror
    cases herror
  · obtain ⟨rfl, rfl⟩ := List.cons.inj (hreq.symm.trans hreq')
    obtain rfl := Except.ok.inj (hdecode.symm.trans hok)
    exact hstep

end Sys2Proof.Machine
end

section
/-!
Rules about the two encodings (30_encoding.md): what the decoder of request packets accepts and how the encoder's packets
and frames read back (R90, R91, R97, R98, R107).
-/
namespace Sys2Proof

/-! ### Operands read back -/

/-- A u16 operand stands high byte first (R91), and its two bytes can be told apart again. -/
@[simp] theorem highByte_halfOfBytes (hi lo : Byte) : highByte (halfOfBytes hi lo) = hi :=
  BitVec.extractLsb'_append_eq_left

@[simp] theorem lowByte_halfOfBytes (hi lo : Byte) : lowByte (halfOfBytes hi lo) = lo :=
  BitVec.extractLsb'_append_eq_right

@[simp] theorem halfOfBytes_highByte_lowByte (v : Half) : halfOfBytes (highByte v) (lowByte v) = v :=
  (BitVec.extractLsb'_append_extractLsb'_eq_extractLsb' rfl).trans BitVec.extractLsb'_eq_self

/-- Bits 7:1 of a byte, as a mask and as a number. -/
theorem reservedFlags_eq_zero_iff : ∀ flags : Byte, flags &&& 0xFE#8 = 0#8 ↔ flags.toNat / 2 = 0 := by decide

/-- A flags byte with no reserved bit set is its bit 0 (R91, R110 item 3). -/
theorem boolByte_getLsbD_zero {flags : Byte} (h : flags &&& 0xFE#8 = 0#8) : boolByte (flags.getLsbD 0) = flags := by
  have hhalf := (reservedFlags_eq_zero_iff flags).mp h
  obtain hbit | hbit : flags.toNat = 0 ∨ flags.toNat = 1 := by omega
  · rw [BitVec.eq_of_toNat_eq (y := 0#8) hbit]
    rfl
  · rw [BitVec.eq_of_toNat_eq (y := 1#8) hbit]
    rfl

theorem scale_toNat {pct : Byte} (h : pct.toNat ≤ 100) : (scale pct).toNat = (pct.toNat * 255 + 50) / 100 := by
  rw [scale, BitVec.toNat_ofNat]
  omega

/-- A percent is scaled by more than 2, so rounding does not bring two of them together (R150). -/
theorem scale_inj {p q : Byte} (hp : p.toNat ≤ 100) (hq : q.toNat ≤ 100) (h : scale p = scale q) : p = q := by
  have hnat := congrArg BitVec.toNat h
  rw [scale_toNat hp, scale_toNat hq] at hnat
  exact BitVec.eq_of_toNat_eq (by omega)

theorem mem_percents_iff (pct : Byte) : pct ∈ (List.range 101).map (BitVec.ofNat 8) ↔ pct.toNat ≤ 100 := by
  rw [List.mem_map]
  constructor
  · rintro ⟨n, hn, rfl⟩
    have := List.mem_range.mp hn
    rw [BitVec.toNat_ofNat]
    omega
  · exact fun h => ⟨pct.toNat, List.mem_range.mpr (by omega), by simp⟩

theorem unscale_eq_some {ext pct : Byte} (h : unscale ext = some pct) : pct.toNat ≤ 100 ∧ scale pct = ext := by
  rw [unscale] at h
  exact ⟨(mem_percents_iff pct).mp (List.mem_of_find?_eq_some h), by simpa using List.find?_some h⟩

/-- The search finds the percent itself, since no other one has its extension. -/
theorem unscale_scale {pct : Byte} (h : pct.toNat ≤ 100) : unscale (scale pct) = some pct := by
  have hfound : (unscale (scale pct)).isSome := by
    rw [unscale, List.find?_isSome]
    exact ⟨pct, (mem_percents_iff pct).mpr h, beq_self_eq_true _⟩
  obtain ⟨q, hq⟩ := Option.isSome_iff_exists.mp hfound
  obtain ⟨hle, hscale⟩ := unscale_eq_some hq
  rw [hq, scale_inj hle h hscale]

/-! ### What the decoder of request packets accepts -/

theorem decodeNoArgs_eq_ok {i j : Instr} {args : List Byte} (h : decodeNoArgs i args = .ok j) :
    args = [] ∧ j = i := by
  cases args with
  | nil => exact ⟨rfl, (Except.ok.inj h).symm⟩
  | cons => cases h

theorem decodeSyncArgs_eq_ok {make : Byte → Bool → Instr} {args : List Byte} {j : Instr}
    (h : decodeSyncArgs make args = .ok j) : ∃ pct dbl, args = [pct, boolByte dbl] ∧ j = make pct dbl := by
  revert h
  fun_cases decodeSyncArgs make args with
  | case1 pct flags hreserved =>
    exact fun h => ⟨pct, flags.getLsbD 0, by rw [boolByte_getLsbD_zero hreserved], (Except.ok.inj h).symm⟩
  | case2 | case3 => nofun

theorem decodeSyncArgs_of_reserved_eq_zero (make : Byte → Bool → Instr) (pct : Byte) {flags : Byte}
    (h : flags &&& 0xFE#8 = 0#8) : decodeSyncArgs make [pct, flags] = .ok (make pct (flags.getLsbD 0)) :=
  if_pos h

theorem decodeSyncArgs_boolByte (make : Byte → Bool → Instr) (pct : Byte) (dbl : Bool) :
    decodeSyncArgs make [pct, boolByte dbl] = .ok (make pct dbl) := by
  cases dbl <;> rfl

/-- R147's operand length is a byte that counts the bytes after it. -/
theorem decodePacket_decode {l : Byte} {bytes : List Byte} (h : bytes.length = l.toNat) :
    decodePacket (0x02 :: l :: bytes) = .ok (.decode bytes) :=
  if_pos h

/-- The decoder of request packets accepts nothing but the encoder's packet of the instruction it answers: in each branch
that accepts, the packet is written out by the branch. -/
theorem encode_of_decodePacket (cfg : Config) (hc1 hc2 : Byte) (p : List Byte) (i : Instr) :
    decodePacket p = .ok i → i.wellFormed = true ∧ encode cfg hc1 hc2 i = .packet p := by
  fun_cases decodePacket p with
  | case1 | case3 | case5 | case6 | case11 | case16 | case19 | case21 => nofun
  | case2 | case10 | case18 => rintro ⟨⟩; exact ⟨rfl, rfl⟩
  | case4 l bytes hlen =>
    rintro ⟨⟩
    have hbyte : BitVec.ofNat 8 bytes.length = l := by rw [hlen, BitVec.ofNat_toNat, BitVec.setWidth_eq]
    exact ⟨decide_eq_true (by omega), by rw [encode, hbyte]; rfl⟩
  | case15 hi lo pct => rintro ⟨⟩; exact ⟨rfl, by rw [encode, highByte_halfOfBytes, lowByte_halfOfBytes]; rfl⟩
  | case7 | case8 =>
    intro h
    obtain ⟨pct, dbl, rfl, rfl⟩ := decodeSyncArgs_eq_ok h
    exact ⟨rfl, rfl⟩
  | case9 | case12 | case13 | case14 | case17 | case20 =>
    intro h
    obtain ⟨rfl, rfl⟩ := decodeNoArgs_eq_ok h
    exact ⟨rfl, rfl⟩

/-- Every packet that the encoder writes for a well-formed instruction reads back as that instruction. -/
theorem decodePacket_of_encode {cfg : Config} {hc1 hc2 : Byte} {p : List Byte} {i : Instr} (hwf : i.wellFormed = true)
    (h : encode cfg hc1 hc2 i = .packet p) : decodePacket p = .ok i := by
  cases i with
  | decode bytes =>
    obtain rfl := Encoded.packet.inj h
    have hlen : bytes.length ≤ 255 := of_decide_eq_true hwf
    exact decodePacket_decode (by rw [BitVec.toNat_ofNat]; omega)
  | syncFirst pct dbl =>
    obtain rfl := Encoded.packet.inj h
    exact decodeSyncArgs_boolByte .syncFirst pct dbl
  | syncNext pct dbl =>
    obtain rfl := Encoded.packet.inj h
    exact decodeSyncArgs_boolByte .syncNext pct dbl
  | submitReport id pct =>
    obtain rfl := Encoded.packet.inj h
    exact congrArg (fun v => Except.ok (Instr.submitReport v pct)) (halfOfBytes_highByte_lowByte id)
  | encode | syncReset | setHouseCode | isLocked | getCommandedPct | getOpenFlag | aggTick | setThresholds
  | isCallingForHeat =>
    obtain rfl := Encoded.packet.inj h
    rfl
  | valveSet | syncCountdown | syncFinal => cases h

/-! ### Frames read back -/

/-- The address and the checksum that the encoder writes are the ones that the decoder asks for (R97, R98). -/
theorem decodeProtected_protectedBytes (cfg : Config) (hc1 hc2 opcode ext : Byte) :
    decodeProtected cfg (protectedBytes hc1 hc2 opcode ext) = decodeKind cfg opcode ext := by
  simp [decodeProtected, protectedBytes]

theorem decodeKind_opcValveSet (cfg : Config) {pct : Byte} (h : pct.toNat ≤ 100) :
    decodeKind cfg cfg.opcValveSet (scale pct) = .ok (.valveSet pct) := by
  rw [decodeKind, if_pos rfl, unscale_scale h]

theorem decodeKind_opcSyncCountdown {cfg : Config} (hcfg : cfg.Legal) (c : Byte) :
    decodeKind cfg cfg.opcSyncCountdown c = .ok (.syncCountdown c) := by
  obtain ⟨hvalveCountdown, _, _⟩ := hcfg
  rw [decodeKind, if_neg hvalveCountdown.symm, if_pos rfl]

theorem decodeKind_opcSyncFinal {cfg : Config} (hcfg : cfg.Legal) :
    decodeKind cfg cfg.opcSyncFinal 0 = .ok .syncFinal := by
  obtain ⟨_, hvalveFinal, hcountdownFinal⟩ := hcfg
  rw [decodeKind, if_neg hvalveFinal.symm, if_neg hcountdownFinal.symm, if_pos rfl]
  rfl

/-- Every frame that the encoder writes for a well-formed instruction reads back as that instruction; the opcodes tell the
kinds apart because they are distinct (R7). -/
theorem decodeProtected_of_encode {cfg : Config} (hcfg : cfg.Legal) {hc1 hc2 : Byte} {b : List Byte} {i : Instr}
    (hwf : i.wellFormed = true) (h : encode cfg hc1 hc2 i = .frame b) : decodeProtected cfg b = .ok i := by
  cases i with
  | valveSet pct =>
    obtain rfl := Encoded.frame.inj h
    rw [decodeProtected_protectedBytes, decodeKind_opcValveSet cfg (of_decide_eq_true hwf)]
  | syncCountdown c =>
    obtain rfl := Encoded.frame.inj h
    rw [decodeProtected_protectedBytes, decodeKind_opcSyncCountdown hcfg]
  | syncFinal =>
    obtain rfl := Encoded.frame.inj h
    rw [decodeProtected_protectedBytes, decodeKind_opcSyncFinal hcfg]
  | _ => cases h

end Sys2Proof

namespace Sys2Proof.Machine

/-! ### Legal packets -/

/-- The packet that the encoder writes for an instruction has the op byte, the length and the reserved bits of R110. -/
theorem packetLegal_of_encode {cfg : Config} {hc1 hc2 : Byte} {p : List Byte} {i : Instr} (hwf : i.wellFormed = true)
    (h : encode cfg hc1 hc2 i = .packet p) : PacketLegal p := by
  have hflags : ∀ dbl : Bool, (boolByte dbl).toNat / 2 = 0 := by decide
  cases i with
  | encode =>
    obtain rfl := Encoded.packet.inj h
    exact .inl ⟨rfl, rfl⟩
  | decode bytes =>
    obtain rfl := Encoded.packet.inj h
    have hlen : bytes.length ≤ 255 := of_decide_eq_true hwf
    refine .inr (.inl ⟨_, bytes, rfl, ?_⟩)
    simp only [List.length_cons, BitVec.toNat_ofNat]
    omega
  | syncFirst pct dbl =>
    obtain rfl := Encoded.packet.inj h
    exact .inr (.inr (.inl ⟨_, pct, _, rfl, .inl rfl, hflags dbl⟩))
  | syncNext pct dbl =>
    obtain rfl := Encoded.packet.inj h
    exact .inr (.inr (.inl ⟨_, pct, _, rfl, .inr rfl, hflags dbl⟩))
  | setHouseCode =>
    obtain rfl := Encoded.packet.inj h
    exact .inr (.inr (.inr (.inl ⟨.inl rfl, rfl⟩)))
  | setThresholds =>
    obtain rfl := Encoded.packet.inj h
    exact .inr (.inr (.inr (.inl ⟨.inr rfl, rfl⟩)))
  | submitReport =>
    obtain rfl := Encoded.packet.inj h
    exact .inr (.inr (.inr (.inr (.inl ⟨rfl, rfl⟩))))
  | syncReset | isLocked | getCommandedPct | getOpenFlag | aggTick | isCallingForHeat =>
    obtain rfl := Encoded.packet.inj h
    exact .inr (.inr (.inr (.inr (.inr ⟨_, rfl, by decide⟩))))
  | valveSet | syncCountdown | syncFinal => cases h

theorem packetLegal_of_decodePacket {p : List Byte} {i : Instr} (h : decodePacket p = .ok i) : PacketLegal p := by
  obtain ⟨hwf, hencode⟩ := encode_of_decodePacket Config.delivered 0 0 p i h
  exact packetLegal_of_encode hwf hencode

theorem decodePacket_of_packetLegal {p : List Byte} (h : PacketLegal p) : ∃ i : Instr, decodePacket p = .ok i := by
  obtain ⟨hhead, hlen⟩ | ⟨l, bytes, rfl, hlen⟩ | ⟨op, pct, flags, rfl, hop, hflags⟩ | ⟨hhead, hlen⟩ | ⟨hhead, hlen⟩
    | ⟨op, rfl, hop⟩ := h
  · match p, hhead, hlen with
    | [_, a, b, c, d], rfl, _ => exact ⟨.encode a b c d, rfl⟩
  · exact ⟨.decode bytes, decodePacket_decode (by simp only [List.length_cons] at hlen; omega)⟩
  · have hreserved := (reservedFlags_eq_zero_iff flags).mpr hflags
    obtain rfl | rfl := hop
    · exact ⟨_, decodeSyncArgs_of_reserved_eq_zero .syncFirst pct hreserved⟩
    · exact ⟨_, decodeSyncArgs_of_reserved_eq_zero .syncNext pct hreserved⟩
  · obtain ⟨op, a, b, rfl⟩ := List.length_eq_three.mp hlen
    obtain hop | hop := hhead <;> obtain rfl := Option.some.inj hop
    · exact ⟨.setHouseCode a b, rfl⟩
    · exact ⟨.setThresholds a b, rfl⟩
  · obtain ⟨op, hi, lo, pct, rfl⟩ := List.length_eq_four.mp hlen
    obtain rfl := Option.some.inj hhead
    exact ⟨.submitReport (halfOfBytes hi lo) pct, rfl⟩
  · fin_cases hop <;> exact ⟨_, rfl⟩

/-- The decoder accepts exactly the packets that R110 calls legal. -/
theorem packetLegal_iff (p : List Byte) : PacketLegal p ↔ ∃ i : Instr, decodePacket p = .ok i :=
  ⟨decodePacket_of_packetLegal, fun ⟨_, h⟩ => packetLegal_of_decodePacket h⟩

end Sys2Proof.Machine
end

section
/-!
Rules about the symbol stream of a frame (30_encoding.md): the logical bits it is made of, its length by their ones
(R105, R106), and the runs of ones in it (R103).
-/
namespace Sys2Proof.Machine

/-! ### The logical bits of a frame -/

/-- The logical bits of a frame's stream (R99): the preamble's zeros, the leading one, the protected bytes with their parities,
the trailer and the flush. -/
def frameBits (hc1 hc2 opcode ext : Byte) : List Bool :=
  List.replicate preambleZeroBits false ++ [true] ++ (protectedBytes hc1 hc2 opcode ext).flatMap protectedBits
    ++ [false, false]

@[simp] theorem symbolsOf_append (xs ys : List Bool) : symbolsOf (xs ++ ys) = symbolsOf xs ++ symbolsOf ys :=
  List.flatMap_append

theorem frameSymbols_eq_symbolsOf (hc1 hc2 opcode ext : Byte) :
    frameSymbols hc1 hc2 opcode ext = symbolsOf (frameBits hc1 hc2 opcode ext) := by
  simp only [frameSymbols, frameBits, protectedBytes, byteSymbols, symbolsOf_append, symbolsOf_cons, symbolsOf_nil,
    List.flatMap_cons, List.flatMap_nil, List.append_nil, List.append_assoc]

theorem frameBits_length (hc1 hc2 opcode ext : Byte) : (frameBits hc1 hc2 opcode ext).length = 69 := rfl

/-! ### The length of a frame by its ones -/

/-- What a protected byte adds to the length of R105: its 1 bits, and the parity bit that makes them even. -/
def evenOnes (v : Byte) : Nat := popcount v + popcount v % 2

theorem protectedBits_count_true (v : Byte) : (protectedBits v).count true = evenOnes v := by
  rw [protectedBits, List.count_append, evenOnes, parityBit]
  obtain h | h := Nat.mod_two_eq_zero_or_one (popcount v) <;> rw [h] <;> rfl

/-- The ones of a frame are the leading one and those of the protected bytes. -/
theorem frameBits_count_true (hc1 hc2 opcode ext : Byte) :
    (frameBits hc1 hc2 opcode ext).count true = 1 + ((protectedBytes hc1 hc2 opcode ext).map evenOnes).sum := by
  have hbytes : List.count true ∘ protectedBits = evenOnes := funext protectedBits_count_true
  have hpreamble : (List.replicate preambleZeroBits false).count true = 0 := rfl
  rw [frameBits, List.count_append, List.count_append, List.count_append, List.count_flatMap, hbytes, hpreamble]
  simp

theorem frameSymbols_length (hc1 hc2 opcode ext : Byte) :
    (frameSymbols hc1 hc2 opcode ext).length =
      278 + 2 * ((protectedBytes hc1 hc2 opcode ext).map evenOnes).sum := by
  rw [frameSymbols_eq_symbolsOf, symbolsOf_length, frameBits_length, frameBits_count_true]
  omega

theorem frameBytes_length (hc1 hc2 opcode ext : Byte) :
    (frameBytes hc1 hc2 opcode ext).length = ((frameSymbols hc1 hc2 opcode ext).length + 7) / 8 :=
  packSymbols_length _

theorem eq_zero_of_evenOnes_lt_two {v : Byte} (h : evenOnes v < 2) : v = 0 := by
  have hones : (bitsMsbFirst v).count true = 0 := by rw [evenOnes, popcount] at h; omega
  have hbits : bitsMsbFirst v = List.replicate 8 false :=
    List.eq_replicate_iff.mpr ⟨bitsMsbFirst_length v, fun b hb =>
      Bool.eq_false_of_not_eq_true fun hb' => List.count_eq_zero.mp hones (hb' ▸ hb)⟩
  rw [← byteOfBits_bitsMsbFirst v, hbits]
  rfl

/-- No record is without ones: where the record's own bytes have none, the checksum is its seed (R98, R106). -/
theorem two_le_evenOnes_sum (hc1 hc2 opcode ext : Byte) :
    2 ≤ ((protectedBytes hc1 hc2 opcode ext).map evenOnes).sum := by
  by_contra hlt
  simp only [protectedBytes, List.map_cons, List.map_nil, List.sum_cons, List.sum_nil] at hlt
  obtain rfl : hc1 = 0 := eq_zero_of_evenOnes_lt_two (by omega)
  obtain rfl : hc2 = 0 := eq_zero_of_evenOnes_lt_two (by omega)
  obtain rfl : opcode = 0 := eq_zero_of_evenOnes_lt_two (by omega)
  obtain rfl : ext = 0 := eq_zero_of_evenOnes_lt_two (by omega)
  exact hlt (by decide)

theorem le_frameSymbols_length (hc1 hc2 opcode ext : Byte) : 282 ≤ (frameSymbols hc1 hc2 opcode ext).length := by
  have := two_le_evenOnes_sum hc1 hc2 opcode ext
  rw [frameSymbols_length]
  omega

/-! ### Runs of ones -/

/-- Each logical bit ends in two 0 symbols and holds three 1 symbols at most (R93), so four do not stand together, and zero
padding adds none. -/
theorem not_four_ones_infix (bits : List Bool) (pad : Nat) :
    ¬ [true, true, true, true] <:+: symbolsOf bits ++ List.replicate pad false := by
  induction bits with
  | nil =>
    intro h
    have htrue : true ∈ List.replicate pad false := h.subset (List.mem_cons_self ..)
    exact absurd (List.eq_of_mem_replicate htrue) (by decide)
  | cons b bits ih => cases b <;> simpa [bitSymbols, List.infix_cons_iff] using ih

/-- The leading one is a run of three (R93, R101). -/
theorem three_ones_infix (hc1 hc2 opcode ext : Byte) : [true, true, true] <:+: frameSymbols hc1 hc2 opcode ext := by
  have hone : [true, true, true] <:+: bitSymbols true := by decide
  have hbit : bitSymbols true <:+: symbolsOf (frameBits hc1 hc2 opcode ext) :=
    List.infix_flatMap_of_mem (by simp [frameBits]) bitSymbols
  rw [frameSymbols_eq_symbolsOf]
  exact hone.trans hbit

theorem bitsMsbFirst_infix_bufferSymbols {b : Byte} {bytes : List Byte} (h : b ∈ bytes) :
    bitsMsbFirst b <:+: bufferSymbols bytes :=
  List.infix_of_mem_flatten (List.mem_map_of_mem h)

/-- A byte of a packed buffer that were the sentinel would be eight 1 symbols together in the padded stream. -/
theorem sentinel_not_mem_packSymbols (bits : List Bool) : sentinel ∉ packSymbols (symbolsOf bits) := by
  intro hmem
  obtain ⟨pad, _, _, hbuffer⟩ := bufferSymbols_packSymbols (symbolsOf bits)
  have hfour : [true, true, true, true] <:+: bitsMsbFirst sentinel := by decide
  have hbyte := bitsMsbFirst_infix_bufferSymbols hmem
  rw [hbuffer] at hbyte
  exact not_four_ones_infix bits pad (hfour.trans hbyte)

end Sys2Proof.Machine
end

section
/-!
Rules about the transmission events of a timing call: that it emits one at most, and which frame it carries (R53, R107, R173,
R178).
-/
namespace Sys2Proof.Machine

/-- The frame and the copies of an event are those of one of the three kinds, for the stored pair (R107, R175, R177, R179). -/
def TxEvent.OfKind (e : TxEvent) (s : State) : Prop :=
  (∃ c : Byte, c.toNat % 2 = 1 ∧ e.copies = .two
    ∧ e.frame = frameBytes s.se.hc1 s.se.hc2 s.cfg.opcSyncCountdown c)
  ∨ (e.copies = .two ∧ e.frame = frameBytes s.se.hc1 s.se.hc2 s.cfg.opcSyncFinal 0)
  ∨ (∃ percent : Byte, percent.toNat ≤ 100
    ∧ e.frame = frameBytes s.se.hc1 s.se.hc2 s.cfg.opcValveSet (scale percent))

/-- From `s` to `t` no event goes out, or one of the three kinds with a result drawn for each copy. -/
def EmitsAtMostOne (s t : State) : Prop :=
  t.io = s.io ∨ ∃ e : TxEvent, t.io = s.io.emit e ∧ e.sendOk.length = e.copies.count ∧ e.OfKind s

/-- What goes out when a frame is sent (R53, R54, R184). The frame is compared by `dsimp only`: `rfl` would evaluate it. -/
theorem sendFrame_emits (op ext : Byte) (copies : Copies) (s : State) :
    ∃ e : TxEvent, (sendFrame op ext copies s).2.io = s.io.emit e ∧ e.sendOk.length = e.copies.count
      ∧ e.copies = copies ∧ e.frame = frameBytes s.se.hc1 s.se.hc2 op ext := by
  obtain ⟨oks, hlen, _, _, h⟩ := sendFrame_spec op ext copies s
  exact ⟨{ frame := frameBytes s.se.hc1 s.se.hc2 op ext, copies := copies, sendOk := oks }, congrArg State.io h, hlen,
    by dsimp only, by dsimp only⟩

/-- What goes out when a composed valve-set is sent (R179). -/
theorem transmit_composeValveSet_emits (pct : Byte) (copies : Copies) (s : State) :
    ∃ e : TxEvent,
      (transmit (composedLength s.cfg.opcValveSet (scale pct) s) copies (composeValveSet pct s)).2.io = s.io.emit e
      ∧ e.sendOk.length = e.copies.count
      ∧ e.frame = frameBytes s.se.hc1 s.se.hc2 s.cfg.opcValveSet (scale pct) := by
  obtain ⟨oks, hlen, _, _, h⟩ :=
    transmit_spec (composedLength s.cfg.opcValveSet (scale pct) s) copies (composeValveSet pct s)
  rw [h, composeValveSet_se_txBuffer, ← compose_se_txBuffer, compose_take, composeValveSet_io]
  exact ⟨{ frame := frameBytes s.se.hc1 s.se.hc2 s.cfg.opcValveSet (scale pct), copies := copies, sendOk := oks }, rfl,
    hlen, by dsimp only⟩

theorem countdownAdvance_io (s : State) : (countdownAdvance s).io = s.io := by
  obtain ⟨_, h⟩ | ⟨_, h⟩ := countdownAdvance_cases s <;> rw [h]

theorem countdownStep_emits (s : State) : EmitsAtMostOne s (countdownStep s) := by
  rw [countdownStep]
  split
  · exact .inl rfl
  rw [EmitsAtMostOne, countdownAdvance_io, countdownSend]
  split
  · rename_i hodd
    obtain ⟨e, hio, hlen, hcopies, hframe⟩ := sendFrame_emits s.cfg.opcSyncCountdown s.se.countdown .two s
    exact .inr ⟨e, hio, hlen, .inl ⟨s.se.countdown, hodd, hcopies, hframe⟩⟩
  · exact .inl rfl

theorem finalStep_emits (pct : Byte) (s : State) : EmitsAtMostOne s (finalStep pct s) := by
  rw [finalStep]
  split
  · obtain ⟨e, hio, hlen, hcopies, hframe⟩ := sendFrame_emits s.cfg.opcSyncFinal 0 .two s
    refine .inr ⟨e, ?_, hlen, .inr (.inl ⟨hcopies, hframe⟩)⟩
    dsimp only
    rw [composeValveSet_io, hio]
  · exact .inl rfl

theorem steadyStep_emits {pct : Byte} (hpct : pct.toNat ≤ 100) (dbl : Bool) (s : State) :
    EmitsAtMostOne s (steadyStep pct dbl s) := by
  rw [steadyStep]
  split
  · obtain ⟨e, hio, hlen, hframe⟩ := transmit_composeValveSet_emits pct (steadyCopies dbl) s
    exact .inr ⟨e, hio, hlen, .inr (.inr ⟨pct, hpct, hframe⟩)⟩
  · exact .inl rfl

/-- The phase step takes one branch (R173), so it emits one event at most. -/
theorem act_emits {pct : Byte} (hpct : pct.toNat ≤ 100) (dbl : Bool) (s : State) :
    EmitsAtMostOne s (act pct dbl s) := by
  obtain ⟨_, _, h⟩ | ⟨_, _, h⟩ | ⟨_, h⟩ | ⟨_, h⟩ | ⟨_, h⟩ := act_cases pct dbl s <;> rw [h]
  · exact .inl rfl
  · exact countdownStep_emits { s with se.phase := .countingDown, se.countdown := countdownStart }
  · exact countdownStep_emits s
  · exact finalStep_emits pct s
  · exact steadyStep_emits hpct dbl s

theorem actAndRespond_io_sendResults (pct : Byte) (dbl : Bool) (s : State) :
    (actAndRespond pct dbl s).io.sendResults = (act (preparePct pct) dbl s).io.sendResults := rfl

/-- Up to the response, a timing call puts out what its phase step does; lowering a due index puts out nothing. -/
theorem TimingCall.emits {s : State} {i : Instr} {pct : Byte} {dbl : Bool} {h lowered passed : Nat}
    (_ : TimingCall s i pct dbl h lowered passed) :
    EmitsAtMostOne s (act (preparePct pct) dbl (atBoundary h lowered s)) :=
  act_emits (by rw [preparePct_toNat]; omega) dbl (atBoundary h lowered s)

end Sys2Proof.Machine
end

section
/-!
Proofs about the encodings (30_encoding.md): request packets and frames written and read back (R90, R91, R97, R107, R110),
the length of a frame and its sentinel (R103 to R106), and which frames are transmitted (R107, R112).
-/
namespace Sys2Proof.Machine

/-! ### The two encodings -/

/-- Settles O6: what the encoder writes is a packet or a frame, and each reads back. -/
theorem decodingAnEncodedInstructionGivesItBack : Obligations.DecodingAnEncodedInstructionGivesItBack := by
  intro cfg hc1 hc2 i hcfg hwf
  cases h : encode cfg hc1 hc2 i with
  | packet p => exact decodePacket_of_encode hwf h
  | frame b => exact decodeProtected_of_encode hcfg hwf h

/-- Settles O7. -/
theorem aPacketDecodesExactlyToTheRequestItEncodes : Obligations.APacketDecodesExactlyToTheRequestItEncodes :=
  fun cfg hc1 hc2 p i =>
    ⟨fun h => ⟨decodePacket_isRequest h, encode_of_decodePacket cfg hc1 hc2 p i h⟩,
      fun ⟨_, hwf, h⟩ => decodePacket_of_encode hwf h⟩

/-- Settles O8: the decoder accepts exactly the legal packets, so a step refuses the others. -/
theorem illegalPacketsAreRefusedWithoutAChange : Obligations.IllegalPacketsAreRefusedWithoutAChange := by
  refine ⟨fun s p rest hreq hillegal => ?_, fun p hlegal => (packetLegal_iff p).mp hlegal⟩
  obtain ⟨hempty, _⟩ | ⟨_, _, _, hreq', _, hstep⟩ | ⟨_, _, i, hreq', hok, _⟩ := step_cases s
  · rw [hreq] at hempty
    cases hempty
  · obtain ⟨rfl, rfl⟩ := List.cons.inj (hreq.symm.trans hreq')
    exact hstep
  · obtain ⟨rfl, rfl⟩ := List.cons.inj (hreq.symm.trans hreq')
    exact absurd ((packetLegal_iff p).mpr ⟨i, hok⟩) hillegal

/-- Settles O9: the decoder evaluates to each answer; the OPEN parameters of the configuration take no part. -/
theorem writtenOutWordsDecode : Obligations.WrittenOutWordsDecode :=
  ⟨rfl, rfl, rfl, rfl, rfl, rfl⟩

/-! ### The length of a frame and its sentinel -/

/-- Settles O11. -/
theorem frameLengthCountsItsOnes : Obligations.FrameLengthCountsItsOnes := fun hc1 hc2 opcode ext =>
  ⟨frameSymbols_length hc1 hc2 opcode ext, frameBytes_length hc1 hc2 opcode ext⟩

/-- Settles O12: every length follows from the ones of the protected bytes (R105). -/
theorem frameLengthsLieBetween36And45 : Obligations.FrameLengthsLieBetween36And45 := by
  have hzero : (frameSymbols 0 0 0 0).length = 282 := by rw [frameSymbols_length]; decide
  have hlongest : (frameSymbols 0x7F 0x7F 0xEF 0xFE).length = 358 := by rw [frameSymbols_length]; decide
  have hones : (frameSymbols 0xFF 0xFF 0xFF 0xFF).length = 346 := by rw [frameSymbols_length]; decide
  refine ⟨fun hc1 hc2 opcode ext => ?_, ⟨by decide, hzero, by rw [frameBytes_length, hzero]⟩,
    ⟨by decide, hlongest, by rw [frameBytes_length, hlongest]⟩, hones, by rw [frameBytes_length, hones]⟩
  have hlow := le_frameSymbols_length hc1 hc2 opcode ext
  have hhigh := frameSymbols_length_le hc1 hc2 opcode ext
  rw [frameBytes_length]
  omega

/-- Settles O13: four ones never stand together in a frame's stream, and a sentinel would be eight. -/
theorem noMeaningfulByteIsTheSentinel : Obligations.NoMeaningfulByteIsTheSentinel := by
  intro hc1 hc2 opcode ext
  have hstream := frameSymbols_eq_symbolsOf hc1 hc2 opcode ext
  refine ⟨rfl, ?_, three_ones_infix hc1 hc2 opcode ext, ?_, frameBytes_head? hc1 hc2 opcode ext⟩
  · rw [frameBytes, hstream]
    exact sentinel_not_mem_packSymbols _
  · have hfour := not_four_ones_infix (frameBits hc1 hc2 opcode ext) 0
    rwa [List.replicate_zero, List.append_nil, ← hstream] at hfour

/-! ### Which frames are transmitted -/

/-- Settles O39: an instruction that is no timing call writes no event (R50), and a timing call emits what its phase step
does. -/
theorem onlyTimingCallsTransmitAndOneFrameEach : Obligations.OnlyTimingCallsTransmitAndOneFrameEach := by
  intro s t i h
  cases hi : isTiming i with
  | false =>
    obtain ⟨_, _, _, _, _, _, hio, _⟩ := everyInstructionLeavesTheOtherRegisters s t i h
    obtain ⟨_, hevents, _, _⟩ := hio hi
    exact .inl hevents
  | true =>
    obtain ⟨_, _, _, _, rfl⟩ | ⟨pct, dbl, _, _, _, hcall, rfl⟩ := exec_timing h hi
    · exact .inl rfl
    obtain hnone | ⟨e, hio, hlen, hkind⟩ := hcall.emits
    · exact .inl (by rw [actAndRespond_io_events, hnone])
    · exact .inr ⟨rfl, e, by rw [actAndRespond_io_events, hio, Io.emit], hlen,
        by rw [actAndRespond_io_sendResults, hio, Io.emit], hkind⟩

end Sys2Proof.Machine
end

section
/-!
A pause for the compile as one text. The kernel evaluates the tests above in the background, about forty at a time and each
in a thread of its own; elaborating the proofs below beside them takes the compile past the memory limit of the check.
Nothing is proved here and nothing uses it.
-/
set_option linter.unusedTactic false in
example : (by sleep 30000; exact True) := trivial
end

section
/-!
Rules about the frame decoder's readers (R140 to R146): each reader as a chain of the readers it calls, what it makes of
symbols that the encoder wrote, and that symbols after its end take no part in what it answers.
-/
namespace Sys2Proof.Machine

/-! ### Each reader as a chain of readers -/

theorem scanLeadingOne_succ (n : Nat) (s : List Bool) :
    scanLeadingOne (n + 1) s = (readBit s).bind fun p => if p.1 then .ok p.2 else scanLeadingOne n p.2 := by
  rw [scanLeadingOne]
  obtain _ | ⟨_ | _, _⟩ := readBit s <;> rfl

theorem readBits_succ (n : Nat) (v : Byte) (s : List Bool) :
    readBits (n + 1) v s = (readBit s).bind fun p => readBits n (2 * v + boolByte p.1) p.2 := by
  rw [readBits]
  cases readBit s <;> rfl

/-- The parity check of `ReadByteWithParity` (R144). -/
def checkParity (v : Byte) (p : Bool × List Bool) : Except DecodeError (Byte × List Bool) :=
  if (popcount v + p.1.toNat) % 2 ≠ 0 then .error .parityMismatch else .ok (v, p.2)

theorem readByteWithParity_eq (s : List Bool) :
    readByteWithParity s = (readBits 8 0 s).bind fun d => (readBit d.2).bind (checkParity d.1) := by
  rw [readByteWithParity]
  obtain _ | ⟨_, s1⟩ := readBits 8 0 s
  · rfl
  · dsimp only [Except.bind]
    cases readBit s1 <;> rfl

theorem readBytes_succ (n : Nat) (s : List Bool) :
    readBytes (n + 1) s =
      (readByteWithParity s).bind fun d => (readBytes n d.2).bind fun r => .ok (d.1 :: r.1, r.2) := by
  rw [readBytes]
  obtain _ | ⟨_, s1⟩ := readByteWithParity s
  · rfl
  · dsimp only [Except.bind]
    cases readBytes n s1 <;> rfl

theorem finishDecode_six (hc1 hc2 addr opcode ext cs : Byte) (s : List Bool) :
    finishDecode [hc1, hc2, addr, opcode, ext, cs] s =
      if checksum hc1 hc2 addr opcode ext ≠ cs then .error .checksumMismatch
      else (readBit s).bind fun p => if p.1 then .error .missingTrailer else .ok ⟨hc1, hc2, opcode, ext⟩ := by
  rw [finishDecode, checkTrailer]
  obtain _ | ⟨_ | _, _⟩ := readBit s <;> rfl

theorem decodeSymbols_eq (s : List Bool) :
    decodeSymbols s =
      (scanLeadingOne (s.length + 1) s).bind fun s1 => (readBytes 6 s1).bind fun d => finishDecode d.1 d.2 := by
  rw [decodeSymbols]
  obtain _ | s1 := scanLeadingOne (s.length + 1) s
  · rfl
  · dsimp only [Except.bind]
    cases readBytes 6 s1 <;> rfl

/-! ### Reading what the encoder wrote, up to where it ends -/

/-- The scan passes over encoded zeros, each at the cost of one read (R143). -/
theorem scanLeadingOne_zeros_append (m n : Nat) (s : List Bool) :
    scanLeadingOne (m + n) (symbolsOf (List.replicate m false) ++ s) = scanLeadingOne n s := by
  induction m with
  | zero => simp
  | succ m ih =>
    rw [Nat.add_right_comm, scanLeadingOne_succ, List.replicate_succ, symbolsOf_cons, List.append_assoc,
      readBit_bitSymbols]
    exact ih

theorem readBits_symbolsOf_append (pre : List Bool) (n : Nat) (v : Byte) (s : List Bool) :
    readBits (pre.length + n) v (symbolsOf pre ++ s) = readBits n (shiftIn v pre) s := by
  induction pre generalizing v with
  | nil => simp [shiftIn]
  | cons b pre ih =>
    rw [List.length_cons, Nat.add_right_comm, readBits_succ, symbolsOf_cons, List.append_assoc, readBit_bitSymbols]
    exact ih _

/-- A byte's eight data bits are read; the next logical bit is checked as their parity (R144). -/
theorem readByteWithParity_dataBits (v : Byte) (s : List Bool) :
    readByteWithParity (symbolsOf (bitsMsbFirst v) ++ s) = (readBit s).bind (checkParity v) := by
  have hread := readBits_symbolsOf (bitsMsbFirst v) 0 s
  rw [bitsMsbFirst_length, shiftIn_bitsMsbFirst] at hread
  rw [readByteWithParity_eq, hread]
  rfl

/-- Bytes written with their parities are read back, and the others are read from what follows. -/
theorem readBytes_byteSymbols_append (vs : List Byte) (n : Nat) (s : List Bool) :
    readBytes (vs.length + n) (vs.flatMap byteSymbols ++ s) =
      (readBytes n s).bind fun r => .ok (vs ++ r.1, r.2) := by
  induction vs with
  | nil =>
    rw [List.length_nil, Nat.zero_add, List.flatMap_nil, List.nil_append]
    cases readBytes n s <;> rfl
  | cons v vs ih =>
    rw [List.length_cons, Nat.add_right_comm, readBytes_succ, List.flatMap_cons, List.append_assoc,
      readByteWithParity_byteSymbols]
    dsimp only [Except.bind]
    rw [ih]
    cases readBytes n s <;> rfl

/-! ### A frame, read up to a place in it -/

/-- The logical bits before a frame's protected bytes: the preamble's zeros and the leading one (R99, R101). -/
def leadInBits : List Bool := List.replicate preambleZeroBits false ++ [true]

/-- The logical bits of a frame that the decoder reads: all but the flush bit (R100, R146). -/
def bitsToTrailer (hc1 hc2 opcode ext : Byte) : List Bool :=
  leadInBits ++ (protectedBytes hc1 hc2 opcode ext).flatMap protectedBits ++ [false]

theorem frameBits_eq (hc1 hc2 opcode ext : Byte) :
    frameBits hc1 hc2 opcode ext = bitsToTrailer hc1 hc2 opcode ext ++ [false] := by
  simp [frameBits, bitsToTrailer, leadInBits]

theorem decodeSymbols_leadIn (s : List Bool) :
    decodeSymbols (symbolsOf leadInBits ++ s) = (readBytes 6 s).bind fun d => finishDecode d.1 d.2 := by
  have hlen : preambleZeroBits < (symbolsOf leadInBits ++ s).length + 1 := by
    rw [List.length_append, symbolsOf_length, leadInBits, List.length_append, List.length_replicate]
    omega
  have hscan := scanLeadingOne_zeros preambleZeroBits ((symbolsOf leadInBits ++ s).length + 1) s hlen
  rw [decodeSymbols_eq, leadInBits, symbolsOf_append] at *
  exact congrArg (Except.bind · _) hscan

/-- An error in one of the protected bytes is the decoder's answer, when those before it are whole (R148). -/
theorem decodeSymbols_byte_error {vs : List Byte} {e : DecodeError} {s : List Bool} (hlt : vs.length < 6)
    (he : readByteWithParity s = .error e) :
    decodeSymbols (symbolsOf leadInBits ++ (vs.flatMap byteSymbols ++ s)) = .error e := by
  have hsix : 6 = vs.length + ((5 - vs.length) + 1) := by omega
  rw [decodeSymbols_leadIn, hsix, readBytes_byteSymbols_append, readBytes_succ, he]
  rfl

/-- Six whole protected bytes leave nothing but the trailer to fail (R145, R146). -/
theorem decodeSymbols_protectedBytes (hc1 hc2 opcode ext : Byte) (s : List Bool) :
    decodeSymbols (symbolsOf leadInBits ++ ((protectedBytes hc1 hc2 opcode ext).flatMap byteSymbols ++ s)) =
      (readBit s).bind fun p => if p.1 then .error .missingTrailer else .ok ⟨hc1, hc2, opcode, ext⟩ := by
  have hbytes := readBytes_byteSymbols_append (protectedBytes hc1 hc2 opcode ext) 0 s
  rw [decodeSymbols_leadIn, show 6 = (protectedBytes hc1 hc2 opcode ext).length + 0 from rfl, hbytes]
  exact (finishDecode_six hc1 hc2 0 opcode ext _ s).trans (if_neg (not_not.mpr rfl))

theorem symbolsOf_flatMap_protectedBits (vs : List Byte) :
    symbolsOf (vs.flatMap protectedBits) = vs.flatMap byteSymbols :=
  List.flatMap_assoc

/-- A frame up to its trailer decodes to its record, whatever symbols follow (R146, R149 item 1). -/
theorem decodeSymbols_bitsToTrailer (hc1 hc2 opcode ext : Byte) (s : List Bool) :
    decodeSymbols (symbolsOf (bitsToTrailer hc1 hc2 opcode ext) ++ s) = .ok ⟨hc1, hc2, opcode, ext⟩ := by
  rw [bitsToTrailer, symbolsOf_append, symbolsOf_append, symbolsOf_flatMap_protectedBits, symbolsOf_cons, symbolsOf_nil,
    List.append_nil, List.append_assoc, List.append_assoc, decodeSymbols_protectedBytes, readBit_bitSymbols]
  rfl

/-- The symbols in a frame's bytes: the frame up to its trailer, then the flush and the padding. -/
theorem bufferSymbols_frameBytes (hc1 hc2 opcode ext : Byte) :
    ∃ pad : Nat, bufferSymbols (frameBytes hc1 hc2 opcode ext) =
      symbolsOf (bitsToTrailer hc1 hc2 opcode ext) ++ (bitSymbols false ++ List.replicate pad false) := by
  obtain ⟨pad, _, _, h⟩ := bufferSymbols_packSymbols (frameSymbols hc1 hc2 opcode ext)
  refine ⟨pad, ?_⟩
  rw [frameBytes, h, frameSymbols_eq_symbolsOf, frameBits_eq, symbolsOf_append, List.append_assoc]
  rfl

/-! ### What follows the end of a decode -/

/-- `r'` is what a reader answers when more symbols follow the input it answers `r` to: the same, with what it leaves
unread grown, unless it ran out of symbols. -/
def SameAnswer {α : Type} (grow : α → α) (r r' : Except DecodeError α) : Prop :=
  r = .error .truncatedStream ∨ r' = r.map grow

theorem SameAnswer.bind {α β : Type} {growA : α → α} {growB : β → β} {r r' : Except DecodeError α}
    {f f' : α → Except DecodeError β} (hr : SameAnswer growA r r') (hf : ∀ a, SameAnswer growB (f a) (f' (growA a))) :
    SameAnswer growB (r.bind f) (r'.bind f') := by
  obtain rfl | rfl := hr
  · exact .inl rfl
  · cases r with
    | error e => exact .inr rfl
    | ok a => exact hf a

/-- `ReadBit` looks no further than the pair that decides (R142). -/
theorem readBit_sameAnswer (t s : List Bool) : SameAnswer (Prod.map id (· ++ t)) (readBit s) (readBit (s ++ t)) := by
  match s with
  | [] | [_] | [true, true] | [true, true, _] | [true, true, true, false] | [true, true, true, false, _] =>
    exact .inl rfl
  | false :: _ :: _ | true :: false :: _ | true :: true :: false :: false :: _ => exact .inr rfl
  | true :: true :: false :: true :: _ | true :: true :: true :: true :: _ => exact .inr rfl
  | true :: true :: true :: false :: false :: false :: _ => exact .inr rfl
  | true :: true :: true :: false :: true :: _ :: _ | true :: true :: true :: false :: false :: true :: _ =>
    exact .inr rfl

theorem scanLeadingOne_sameAnswer (t s : List Bool) {n m : Nat} (hle : n ≤ m) :
    SameAnswer (· ++ t) (scanLeadingOne n s) (scanLeadingOne m (s ++ t)) := by
  induction n generalizing m s with
  | zero => exact .inl rfl
  | succ n ih =>
    obtain ⟨m, rfl⟩ := Nat.exists_eq_add_of_le' (Nat.lt_of_lt_of_le n.succ_pos hle)
    rw [scanLeadingOne_succ, scanLeadingOne_succ]
    refine (readBit_sameAnswer t s).bind fun p => ?_
    obtain ⟨b, rest⟩ := p
    cases b with
    | true => exact .inr rfl
    | false => exact ih rest (Nat.le_of_succ_le_succ hle)

theorem readBits_sameAnswer (t s : List Bool) (n : Nat) (v : Byte) :
    SameAnswer (Prod.map id (· ++ t)) (readBits n v s) (readBits n v (s ++ t)) := by
  induction n generalizing v s with
  | zero => exact .inr rfl
  | succ n ih =>
    rw [readBits_succ, readBits_succ]
    exact (readBit_sameAnswer t s).bind fun p => ih p.2 _

theorem readByteWithParity_sameAnswer (t s : List Bool) :
    SameAnswer (Prod.map id (· ++ t)) (readByteWithParity s) (readByteWithParity (s ++ t)) := by
  rw [readByteWithParity_eq, readByteWithParity_eq]
  refine (readBits_sameAnswer t s 8 0).bind fun d => (readBit_sameAnswer t d.2).bind fun p => .inr ?_
  rw [checkParity, checkParity]
  dsimp only [Prod.map, id_eq]
  split <;> rfl

theorem readBytes_sameAnswer (t s : List Bool) (n : Nat) :
    SameAnswer (Prod.map id (· ++ t)) (readBytes n s) (readBytes n (s ++ t)) := by
  induction n generalizing s with
  | zero => exact .inr rfl
  | succ n ih =>
    rw [readBytes_succ, readBytes_succ]
    exact (readByteWithParity_sameAnswer t s).bind fun d => (ih d.2).bind fun _ => .inr rfl

theorem finishDecode_sameAnswer (t s : List Bool) (vs : List Byte) :
    SameAnswer id (finishDecode vs s) (finishDecode vs (s ++ t)) := by
  match vs with
  | [hc1, hc2, addr, opcode, ext, cs] =>
    rw [finishDecode_six, finishDecode_six]
    split
    · exact .inr rfl
    · refine (readBit_sameAnswer t s).bind fun p => .inr ?_
      dsimp only [Prod.map, id_eq]
      split <;> rfl
  | [] | [_] | [_, _] | [_, _, _] | [_, _, _, _] | [_, _, _, _, _] | _ :: _ :: _ :: _ :: _ :: _ :: _ :: _ =>
    exact .inl rfl

theorem decodeSymbols_sameAnswer (t s : List Bool) :
    SameAnswer id (decodeSymbols s) (decodeSymbols (s ++ t)) := by
  have hle : s.length + 1 ≤ (s ++ t).length + 1 := by rw [List.length_append]; omega
  rw [decodeSymbols_eq, decodeSymbols_eq]
  exact (scanLeadingOne_sameAnswer t s hle).bind fun s1 =>
    (readBytes_sameAnswer t s1 6).bind fun d => finishDecode_sameAnswer t d.2 d.1

end Sys2Proof.Machine
end

section
/-!
Rules about changed frames (R149): a symbol inverted in a buffer and in its symbol stream, what one inverted symbol or
one inverted logical bit makes of the bit and the byte it lies in, and how the decoder answers it.
-/
namespace Sys2Proof.Machine

/-! ### One element of a list changed -/

theorem modify_append {α : Type} (f : α → α) (k : Nat) (xs ys : List α) :
    (xs ++ ys).modify k f =
      if k < xs.length then xs.modify k f ++ ys else xs ++ ys.modify (k - xs.length) f := by
  have hright (i : Nat) (xs ys : List α) : (xs ++ ys).modify (xs.length + i) f = xs ++ ys.modify i f :=
    List.modifyTailIdx_add (List.modifyHead f) i xs ys
  split
  · obtain ⟨l, a, r, rfl, rfl, hmod⟩ := List.exists_of_modify f ‹_›
    rw [hmod, List.append_assoc, List.append_assoc]
    exact hright 0 l (a :: r ++ ys)
  · rw [← hright, Nat.add_sub_cancel' (Nat.le_of_not_lt ‹_›)]

/-- An element of two lists put together stands in the one or in the other. -/
theorem append_eq_append_cons {α : Type} {xs ys pre post : List α} {a : α} (h : xs ++ ys = pre ++ a :: post) :
    (∃ rest, xs = pre ++ a :: rest) ∨ ∃ front, pre = xs ++ front ∧ ys = front ++ a :: post := by
  obtain ⟨front, hpre, hys⟩ | ⟨rest, hxs, hpost⟩ := List.append_eq_append_iff.mp h
  · exact .inr ⟨front, hpre, hys⟩
  · cases rest with
    | nil => exact .inr ⟨[], by simpa using hxs.symm, hpost.symm⟩
    | cons b rest =>
      obtain ⟨rfl, rfl⟩ := List.cons.inj hpost
      exact .inl ⟨rest, hxs⟩

/-- The same with one element at the end. -/
theorem concat_eq_append_cons {α : Type} {xs pre post : List α} {x a : α} (h : xs ++ [x] = pre ++ a :: post) :
    (∃ rest, xs = pre ++ a :: rest) ∨ pre = xs ∧ x = a := by
  obtain hleft | ⟨front, hpre, hone⟩ := append_eq_append_cons h
  · exact .inl hleft
  · cases front with
    | nil => exact .inr ⟨hpre.trans (List.append_nil xs), (List.cons.inj hone).left⟩
    | cons y front => simp at hone

/-- An element of a `flatMap` stands in what one of the list's elements gives. -/
theorem flatMap_eq_append_cons {α β : Type} {f : β → List α} {vs : List β} {pre post : List α} {a : α}
    (h : vs.flatMap f = pre ++ a :: post) :
    ∃ (us : List β) (v : β) (p q : List α), us.length < vs.length ∧ pre = us.flatMap f ++ p ∧ f v = p ++ a :: q := by
  induction vs generalizing pre with
  | nil => simp at h
  | cons v vs ih =>
    obtain ⟨rest, hv⟩ | ⟨front, rfl, hvs⟩ := append_eq_append_cons (List.flatMap_cons.symm.trans h)
    · exact ⟨[], v, pre, rest, Nat.succ_pos _, rfl, hv⟩
    · obtain ⟨us, w, p, q, hlt, rfl, hw⟩ := ih hvs
      exact ⟨v :: us, w, p, q, Nat.succ_lt_succ hlt, by simp, hw⟩

/-! ### A symbol inverted in a buffer -/

/-- Symbol `k` of a byte is its bit `7 - k` (R92). -/
theorem bitsMsbFirst_xor {k : Nat} (hk : k < 8) (b : Byte) :
    bitsMsbFirst (b ^^^ BitVec.ofNat 8 (2 ^ (7 - k))) = (bitsMsbFirst b).modify k not := by
  have hget (v : Byte) (i : Nat) (h : i < (bitsMsbFirst v).length) : (bitsMsbFirst v)[i] = v.getLsbD (7 - i) := by
    have hmap : bitsMsbFirst v = (List.range 8).map fun j => v.getLsbD (7 - j) := rfl
    simp only [hmap, List.getElem_map, List.getElem_range]
  refine List.ext_getElem (by rw [List.length_modify]; rfl) fun i hi _ => ?_
  rw [bitsMsbFirst_length] at hi
  have hbit : (7 - k = 7 - i) ↔ k = i := by omega
  rw [List.getElem_modify, hget, hget, BitVec.getLsbD_xor, BitVec.getLsbD_ofNat, Nat.testBit_two_pow,
    decide_eq_true (show 7 - i < 8 by omega), Bool.true_and]
  by_cases h : k = i
  · rw [if_pos h, decide_eq_true (hbit.mpr h), Bool.xor_true]
  · rw [if_neg h, decide_eq_false (mt hbit.mp h), Bool.xor_false]

/-- Inverting symbol `k` of a buffer inverts it in the buffer's symbol stream (R92); past the end there is none. -/
theorem bufferSymbols_invertSymbol (k : Nat) (bytes : List Byte) :
    bufferSymbols (invertSymbol k bytes) = (bufferSymbols bytes).modify k not := by
  induction bytes generalizing k with
  | nil => simp [invertSymbol]
  | cons b bytes ih =>
    rw [bufferSymbols_cons, modify_append, bitsMsbFirst_length]
    split
    · next hlt =>
      rw [invertSymbol, Nat.div_eq_of_lt hlt, Nat.mod_eq_of_lt hlt, List.modify_zero_cons, bufferSymbols_cons,
        bitsMsbFirst_xor hlt]
    · next hge =>
      have hdiv : k / 8 = (k - 8) / 8 + 1 := by omega
      have hmod : k % 8 = (k - 8) % 8 := by omega
      rw [← ih, invertSymbol, hdiv, hmod, List.modify_succ_cons, bufferSymbols_cons]
      rfl

/-- A symbol of a stream belongs to one logical bit. -/
theorem symbolsOf_modify {bits : List Bool} {k : Nat} (hk : k < (symbolsOf bits).length) :
    ∃ pre b post i, bits = pre ++ b :: post ∧ i < (bitSymbols b).length
      ∧ (symbolsOf bits).modify k not = symbolsOf pre ++ ((bitSymbols b).modify i not ++ symbolsOf post) := by
  induction bits generalizing k with
  | nil => simp at hk
  | cons b bits ih =>
    rw [symbolsOf_cons, List.length_append] at hk
    rw [symbolsOf_cons, modify_append]
    split
    · next hlt => exact ⟨[], b, bits, k, rfl, hlt, rfl⟩
    · obtain ⟨pre, c, post, i, rfl, hi, hmod⟩ := ih (k := k - (bitSymbols b).length) (by omega)
      exact ⟨b :: pre, c, post, i, rfl, hi, by rw [hmod, symbolsOf_cons, List.append_assoc]⟩

/-! ### A damaged logical bit -/

/-- A reader answers one of the three errors of R149 item 3. -/
def Detects {α : Type} (r : Except DecodeError α) : Prop :=
  ∃ e : DecodeError, r = .error e ∧ (e = .badLeadingEdge ∨ e = .badSymbolPair ∨ e = .parityMismatch)

theorem Detects.bind {α β : Type} {r : Except DecodeError α} (h : Detects r) (f : α → Except DecodeError β) :
    Detects (r.bind f) := by
  obtain ⟨e, rfl, he⟩ := h
  exact ⟨e, rfl, he⟩

/-- At `s` stood a logical bit `b` and one of its symbols is inverted: the read fails, or a 1 is read as 0 and the read
after it fails. -/
def Damaged (b : Bool) (s : List Bool) : Prop :=
  Detects (readBit s) ∨ b = true ∧ ∃ rest, readBit s = .ok (false, rest) ∧ Detects (readBit rest)

/-- The one inversion that is not seen at once makes `111000` into `110000`, which leaves two 0 symbols where the next
logical bit should begin (R93, R142). The two 1 symbols are those of the next bit. -/
theorem damaged_modify (b : Bool) {i : Nat} (hi : i < (bitSymbols b).length) (s : List Bool) :
    Damaged b ((bitSymbols b).modify i not ++ true :: true :: s) := by
  have hedge (α : Type) : Detects (.error .badLeadingEdge : Except DecodeError α) := ⟨_, rfl, .inl rfl⟩
  have hpair (α : Type) : Detects (.error .badSymbolPair : Except DecodeError α) := ⟨_, rfl, .inr (.inl rfl)⟩
  match b, i with
  | false, 0 | false, 1 | true, 0 | true, 1 => exact .inl (hedge _)
  | false, 2 | false, 3 | true, 3 | true, 4 | true, 5 => exact .inl (hpair _)
  | true, 2 => exact .inr ⟨rfl, _, rfl, hedge _⟩
  | false, i + 4 => exact absurd hi (Nat.not_lt.mpr (Nat.le_add_left 4 i))
  | true, i + 6 => exact absurd hi (Nat.not_lt.mpr (Nat.le_add_left 6 i))

/-- The scan reads a damaged 1 as one more 0, and fails at what is left of it. The bound on its reads that `decodeSymbols`
gives it lets it come that far: there is a symbol to read, since a read of none is no error of the three. -/
theorem Damaged.detects_scanLeadingOne {b : Bool} {s : List Bool} (h : Damaged b s) (m : Nat) :
    Detects (scanLeadingOne ((symbolsOf (List.replicate m false) ++ s).length + 1)
      (symbolsOf (List.replicate m false) ++ s)) := by
  have hs : 0 < s.length := by
    rw [List.length_pos_iff]
    rintro rfl
    obtain ⟨_, herr, he⟩ | ⟨_, _, hok, _⟩ := h
    · obtain rfl := Except.error.inj herr
      simp at he
    · cases hok
  have hfuel : m + 2 ≤ (symbolsOf (List.replicate m false) ++ s).length + 1 := by
    rw [List.length_append, symbolsOf_length, List.length_replicate]
    omega
  obtain ⟨n, hn⟩ := Nat.exists_eq_add_of_le hfuel
  rw [hn, Nat.add_assoc, Nat.add_comm 2 n, scanLeadingOne_zeros_append, scanLeadingOne_succ]
  obtain hread | ⟨_, rest, hread, hrest⟩ := h
  · exact hread.bind _
  · rw [hread]
    show Detects (scanLeadingOne (n + 1) rest)
    rw [scanLeadingOne_succ]
    exact hrest.bind _

/-- Whether any data bits of a byte are still to be read or only its parity, what is read next fails. -/
theorem Detects.readBits_bind {s : List Bool} (h : Detects (readBit s)) (n : Nat) (v : Byte) :
    Detects ((readBits n v s).bind fun d => (readBit d.2).bind (checkParity d.1)) := by
  cases n with
  | zero => exact h.bind _
  | succ n =>
    rw [readBits_succ]
    exact (h.bind _).bind _

/-- A damaged logical bit is detected in its own byte: a parity bit read as 0 in place of 1 does not fit the data
bits. -/
theorem Damaged.detects_readByteWithParity {v : Byte} {pre post s : List Bool} {b : Bool}
    (hv : protectedBits v = pre ++ b :: post) (h : Damaged b s) :
    Detects (readByteWithParity (symbolsOf pre ++ s)) := by
  obtain ⟨rest, hdata⟩ | ⟨rfl, hparity⟩ := concat_eq_append_cons hv
  · have hlen : 8 = pre.length + (rest.length + 1) := by simpa using congrArg List.length hdata
    have hdataBits : readBits 8 0 (symbolsOf pre ++ s) = readBits (rest.length + 1) (shiftIn 0 pre) s := by
      rw [← readBits_symbolsOf_append, ← hlen]
    rw [readByteWithParity_eq, hdataBits]
    obtain hread | ⟨_, _, hread, hrest⟩ := h
    · exact hread.readBits_bind _ _
    · rw [readBits_succ, hread]
      exact hrest.readBits_bind _ _
  · rw [readByteWithParity_dataBits]
    obtain hread | ⟨hone, _, hread, _⟩ := h
    · exact hread.bind _
    · have hodd : (popcount v + false.toNat) % 2 ≠ 0 := by
        have heven := parityBit_even v
        rw [hparity, hone, Bool.toNat_true] at heven
        rw [Bool.toNat_false]
        omega
      rw [hread]
      exact ⟨.parityMismatch, if_pos hodd, .inr (.inr rfl)⟩

/-- A damaged logical bit anywhere from the preamble through the trailer is detected (R149 item 3). -/
theorem Damaged.detects_decodeSymbols {hc1 hc2 opcode ext : Byte} {pre post s : List Bool} {b : Bool}
    (hbits : bitsToTrailer hc1 hc2 opcode ext = pre ++ b :: post) (h : Damaged b s) :
    Detects (decodeSymbols (symbolsOf pre ++ s)) := by
  have hzeros (m : Nat) : Detects (decodeSymbols (symbolsOf (List.replicate m false) ++ s)) := by
    rw [decodeSymbols_eq]
    exact (h.detects_scanLeadingOne m).bind _
  obtain ⟨rest, hfront⟩ | ⟨rfl, rfl⟩ := concat_eq_append_cons hbits
  · obtain ⟨rest, hleadIn⟩ | ⟨front, rfl, hbytes⟩ := append_eq_append_cons hfront
    · obtain ⟨rest, hpre⟩ | ⟨rfl, _⟩ := concat_eq_append_cons hleadIn
      · have hall : pre = List.replicate pre.length false := List.eq_replicate_of_mem fun _ hx =>
          List.eq_of_mem_replicate (hpre ▸ List.mem_append_left _ hx)
        rw [hall]
        exact hzeros _
      · exact hzeros _
    · obtain ⟨us, v, p, q, hlt, rfl, hv⟩ := flatMap_eq_append_cons hbytes
      obtain ⟨e, he, hkind⟩ := h.detects_readByteWithParity hv
      rw [symbolsOf_append, symbolsOf_append, symbolsOf_flatMap_protectedBits, List.append_assoc, List.append_assoc]
      exact ⟨e, decodeSymbols_byte_error hlt he, hkind⟩
  · rw [symbolsOf_append, symbolsOf_flatMap_protectedBits, List.append_assoc, decodeSymbols_protectedBytes]
    exact (h.resolve_right fun hone => Bool.false_ne_true hone.left).bind _

/-- Every logical bit begins with two 1 symbols (R93). -/
theorem symbolsOf_append_bitSymbols (bits : List Bool) (b : Bool) (s : List Bool) :
    ∃ rest, symbolsOf bits ++ (bitSymbols b ++ s) = true :: true :: rest := by
  match bits, b with
  | [], false | [], true | false :: _, _ | true :: _, _ => exact ⟨_, rfl⟩

/-! ### An inverted logical bit -/

/-- Inverting an element changes the number of ones by one. -/
theorem count_modify_not {bits : List Bool} {t : Nat} (ht : t < bits.length) :
    (bits.modify t not).count true % 2 = (bits.count true + 1) % 2 := by
  obtain ⟨l, b, r, rfl, _, hmod⟩ := List.exists_of_modify not ht
  rw [hmod, List.count_append, List.count_append]
  cases b <;> simp <;> omega

/-- Nine logical bits with an odd number of ones are no protected byte (R95, R144). -/
theorem readByteWithParity_of_odd {nine : List Bool} (hlen : nine.length = 9) (hodd : nine.count true % 2 = 1)
    (s : List Bool) : readByteWithParity (symbolsOf nine ++ s) = .error .parityMismatch := by
  obtain ⟨v, p, rfl⟩ : ∃ v p, nine = bitsMsbFirst v ++ [p] := by
    match nine with
    | [b0, b1, b2, b3, b4, b5, b6, b7, p] =>
      exact ⟨byteOfBits [b0, b1, b2, b3, b4, b5, b6, b7], p, by rw [bitsMsbFirst_byteOfBits]; rfl⟩
  have hcheck : (popcount v + p.toNat) % 2 ≠ 0 := by
    rw [List.count_append] at hodd
    cases p <;> simp [popcount] at hodd ⊢ <;> omega
  rw [symbolsOf_append, List.append_assoc, readByteWithParity_dataBits, symbolsOf_cons, symbolsOf_nil, List.append_nil,
    readBit_bitSymbols]
  exact if_pos hcheck

/-- The bytes before the inverted bit stay whole, and its own is the first that fails. -/
theorem decodeSymbols_invertedBits (hc1 hc2 opcode ext : Byte) {j t : Nat} (hj : j < 6) (ht : t < 9) (s : List Bool) :
    decodeSymbols (streamOfBits (invertedBits hc1 hc2 opcode ext j t) ++ s) = .error .parityMismatch := by
  obtain ⟨l, nine, r, hsplit, hl, hmod⟩ := List.exists_of_modify (fun bits => bits.modify t not)
    (l := (protectedBytes hc1 hc2 opcode ext).map protectedBits) (i := j) hj
  obtain ⟨us, _, _, rfl, hr⟩ := List.map_eq_append_iff.mp hsplit
  obtain ⟨v, ws, rfl, rfl, rfl⟩ := List.map_eq_cons_iff.mp hr
  have hus : (us.map protectedBits).flatMap symbolsOf = us.flatMap byteSymbols := List.flatMap_map ..
  have hlt : us.length < 6 := by rwa [← hl, List.length_map] at hj
  have hodd : ((protectedBits v).modify t not).count true % 2 = 1 := by
    rw [count_modify_not ht, protectedBits_count_true, evenOnes]
    omega
  have hlead : symbolsOf (List.replicate preambleZeroBits false) ++ bitSymbols true = symbolsOf leadInBits := by
    rw [leadInBits, symbolsOf_append, symbolsOf_cons, symbolsOf_nil, List.append_nil]
  rw [streamOfBits, invertedBits, hmod, List.flatMap_append, List.flatMap_cons, hus, hlead]
  simp only [List.append_assoc]
  exact decodeSymbols_byte_error hlt (readByteWithParity_of_odd (List.length_modify ..) hodd _)

end Sys2Proof.Machine
end

section
/-!
Proofs about the FrameCodec and the frame kinds (40_framecodec.md): a frame decodes to its record (R149), what a changed
frame gives, ENCODE and DECODE (R132, R147), and the frames loaded by the three kinds (R150 to R153).
-/
namespace Sys2Proof.Machine

/-! ### Decoding frames -/

/-- Settles O10: the decoder stops at the trailer, before the flush, the padding and what follows. -/
theorem everyFrameDecodesToItsRecord : Obligations.EveryFrameDecodesToItsRecord := by
  intro hc1 hc2 opcode ext following
  obtain ⟨pad, hframe⟩ := bufferSymbols_frameBytes hc1 hc2 opcode ext
  rw [decodeFrame, bufferSymbols_append, hframe, List.append_assoc]
  exact decodeSymbols_bitsToTrailer hc1 hc2 opcode ext _

/-- Settles O14: the padding of the packed stream lies after the error. -/
theorem anInvertedLogicalBitGivesParityMismatch : Obligations.AnInvertedLogicalBitGivesParityMismatch := by
  intro hc1 hc2 opcode ext j t hj ht
  obtain ⟨pad, _, _, hbuffer⟩ := bufferSymbols_packSymbols (streamOfBits (invertedBits hc1 hc2 opcode ext j t))
  rw [decodeFrame, hbuffer]
  exact decodeSymbols_invertedBits hc1 hc2 opcode ext hj ht _

/-- Settles O15: the four symbols of the flush bit are the last of the stream, so a symbol below `|S| - 4` belongs to a
logical bit that is read, and one from there on to none. -/
theorem anInvertedSymbolNeverGivesAWrongRecord : Obligations.AnInvertedSymbolNeverGivesAWrongRecord := by
  intro hc1 hc2 opcode ext k
  obtain ⟨pad, hframe⟩ := bufferSymbols_frameBytes hc1 hc2 opcode ext
  have hlen : (frameSymbols hc1 hc2 opcode ext).length - 4 = (symbolsOf (bitsToTrailer hc1 hc2 opcode ext)).length := by
    rw [frameSymbols_eq_symbolsOf, frameBits_eq, symbolsOf_append, List.length_append]
    exact Nat.add_sub_cancel ..
  rw [hlen, decodeFrame, bufferSymbols_invertSymbol, hframe, modify_append]
  refine ⟨fun hk => ?_, fun hk _ => ?_⟩
  · obtain ⟨pre, b, post, i, hbits, hi, hmod⟩ := symbolsOf_modify hk
    obtain ⟨rest, hnext⟩ := symbolsOf_append_bitSymbols post false (List.replicate pad false)
    rw [if_pos hk, hmod, List.append_assoc, List.append_assoc, hnext]
    exact (damaged_modify b hi rest).detects_decodeSymbols hbits
  · rw [if_neg (Nat.not_lt.mpr hk)]
    exact decodeSymbols_bitsToTrailer hc1 hc2 opcode ext _

/-- Settles O16: no reader's answer but TruncatedStream depends on what stands after its end. -/
theorem decodingReadsNothingAfterItsEnd : Obligations.DecodingReadsNothingAfterItsEnd := by
  intro bytes following
  have hsame := decodeSymbols_sameAnswer (bufferSymbols following) (bufferSymbols bytes)
  rw [← bufferSymbols_append] at hsame
  obtain hshort | hlong := hsame
  · refine ⟨fun c hok => ?_, fun e hne herr => ?_⟩
    · cases hshort.symm.trans hok
    · exact absurd (Except.error.inj (herr.symm.trans hshort)) hne
  · exact ⟨fun c hok => hlong.trans (congrArg (Except.map id) hok),
      fun e _ herr => hlong.trans (congrArg (Except.map id) herr)⟩

/-! ### ENCODE and DECODE -/

/-- Settles O17: a frame has 45 bytes at most (R106), so its length is the byte `n`. -/
theorem encodeAnswersTheEncodedBuffer : Obligations.EncodeAnswersTheEncodedBuffer := by
  intro s hc1 hc2 opcode ext
  have hle := frameBytes_length_le hc1 hc2 opcode ext
  have hlen : (encodeFrame hc1 hc2 opcode ext).length - 1 = (frameBytes hc1 hc2 opcode ext).length := by
    rw [encodeFrame, List.length_append]
    exact Nat.add_sub_cancel ..
  refine ⟨BitVec.ofNat 8 (frameBytes hc1 hc2 opcode ext).length, ?_, ?_⟩
  · rw [BitVec.toNat_ofNat]
    omega
  · show execEncode hc1 hc2 opcode ext s = _
    rw [execEncode, hlen]
    dsimp only [respondOk, respond, statusOk, encodeFrame, sentinel]

/-- Encoded zeros alone end a scan with the end of the symbols (R143). `0xCC` is two of them (R104). -/
theorem scanLeadingOne_replicate_CC (m n : Nat) :
    scanLeadingOne n (bufferSymbols (List.replicate m 0xCC)) = .error .truncatedStream := by
  induction m generalizing n with
  | zero => cases n <;> rfl
  | succ m ih =>
    match n with
    | 0 | 1 => rfl
    | n + 2 => exact ih n

/-- The top pair of a byte is `11` from `0xC0` on, and the scan reads it first. -/
theorem decodeFrame_badLeadingEdge {b : Byte} (h : b.toNat < 0xC0) (rest : List Byte) :
    decodeFrame (b :: rest) = .error .badLeadingEdge := by
  have hpair : (b.getLsbD 7, b.getLsbD 6) ≠ (true, true) := by
    intro hpair
    obtain ⟨h7, h6⟩ := Prod.mk.inj hpair
    rw [BitVec.getLsbD, Nat.testBit_eq_decide_div_mod_eq] at h7 h6
    have hdiv7 := of_decide_eq_true h7
    have hdiv6 := of_decide_eq_true h6
    omega
  have hread : readBit (bufferSymbols (b :: rest)) = .error .badLeadingEdge := if_pos hpair
  rw [decodeFrame, decodeSymbols_eq, scanLeadingOne_succ, hread]
  rfl

/-- Settles O18: the response to an error is its code of R262. -/
theorem decodeAnswersTheRecordOrTheErrorCode : Obligations.DecodeAnswersTheRecordOrTheErrorCode := by
  refine ⟨fun s bytes => ?_, fun n => ?_, fun _ rest h => decodeFrame_badLeadingEdge h rest⟩
  · show execDecode bytes s = _
    rw [execDecode]
    cases decodeFrame bytes with
    | ok c => rfl
    | error e => cases e <;> rfl
  · rw [decodeFrame, decodeSymbols_eq, scanLeadingOne_replicate_CC]
    rfl

/-! ### The frame kinds -/

/-- Composing loads the frame: the sentinel is part of what is composed (R42, R184). -/
theorem compose_eq_loaded (op ext : Byte) (s : State) :
    compose op ext s = { s with se.txBuffer := loaded (frameBytes s.se.hc1 s.se.hc2 op ext) s.se.txBuffer } := by
  rw [compose, overlay, encodeFrame, loaded, List.length_append, List.length_singleton, sentinel]

/-- The sentinel and what the buffer held above it follow the trailer, so they take no part in the decoding (R146). -/
theorem decodeFrame_loaded (hc1 hc2 opcode ext : Byte) (buffer : List Byte) :
    decodeFrame (loaded (frameBytes hc1 hc2 opcode ext) buffer) = .ok ⟨hc1, hc2, opcode, ext⟩ := by
  rw [loaded, List.append_assoc]
  exact everyFrameDecodesToItsRecord hc1 hc2 opcode ext _

/-- Settles O19: each kind composes its frame, which is loading it, and the buffer decodes as a frame with bytes after
it. -/
theorem frameKindsLoadTheirFrame : Obligations.FrameKindsLoadTheirFrame := by
  refine fun s => ⟨fun pct hpct => ⟨scale pct, scale_toNat hpct, ?_, decodeFrame_loaded ..⟩,
    fun c => ⟨?_, decodeFrame_loaded ..⟩, ?_, decodeFrame_loaded ..⟩
  · show execValveSet pct s = _
    rw [execValveSet, composeValveSet, compose_eq_loaded]
  · show execSyncCountdown c s = _
    rw [execSyncCountdown, compose_eq_loaded]
  · show execSyncFinal s = _
    rw [execSyncFinal, compose_eq_loaded]

/-- Settles O20: the scaling rounds to distinct extensions (`scale_inj`). -/
theorem distinctPercentsAreSentAsDistinctExtensions : Obligations.DistinctPercentsAreSentAsDistinctExtensions :=
  ⟨fun _ _ hp hq => scale_inj hp hq, fun _ hp => scale_toNat hp, rfl, rfl, rfl⟩

end Sys2Proof.Machine
end

section
/-!
Rules about the steps of the SyncEngine's phases (R173 to R180): the state after each one, with the event that it sends.
-/
namespace Sys2Proof.Machine

/-! ### Sending a frame -/

/-- What a send does at the interface before the response (R53, R54): its event goes out with a result for each copy, those
of the supply first, and it succeeded iff one of them did. -/
def Io.Sends (io io' : Io) (frame : List Byte) (copies : Copies) (succeeded : Bool) : Prop :=
  ∃ oks : List Bool,
    oks.length = copies.count
    ∧ (succeeded = true ↔ true ∈ oks)
    ∧ (copies.count ≤ io.sendResults.length → oks = io.sendResults.take copies.count)
    ∧ io' = io.emit { frame := frame, copies := copies, sendOk := oks }

theorem transmit_sends (len : Nat) (copies : Copies) (s : State) :
    ∃ io' : Io, s.io.Sends io' (s.se.txBuffer.take len) copies (transmit len copies s).1
      ∧ (transmit len copies s).2 = { s with io := io' } := by
  obtain ⟨oks, hlen, hsupply, hok, h⟩ := transmit_spec len copies s
  exact ⟨_, ⟨oks, hlen, hok, hsupply, rfl⟩, h⟩

/-- A composed frame is loaded, and what is transmitted is the frame (R42, R184). -/
theorem sendFrame_sends (op ext : Byte) (copies : Copies) (s : State) :
    ∃ (ok : Bool) (io' : Io), s.io.Sends io' (frameBytes s.se.hc1 s.se.hc2 op ext) copies ok
      ∧ (sendFrame op ext copies s).2 =
          { s with se.txBuffer := loaded (frameBytes s.se.hc1 s.se.hc2 op ext) s.se.txBuffer, io := io' } := by
  obtain ⟨io', hsends, h⟩ := transmit_sends (composedLength op ext s) copies (compose op ext s)
  rw [compose_take, compose_io] at hsends
  refine ⟨_, io', hsends, ?_⟩
  rw [sendFrame, h, compose_eq_loaded]

theorem composeValveSet_eq_loaded (pct : Byte) (s : State) :
    composeValveSet pct s = { s with
      se.txBuffer := loaded (frameBytes s.se.hc1 s.se.hc2 s.cfg.opcValveSet (scale pct)) s.se.txBuffer
      se.commandedPercent := pct } := by
  rw [composeValveSet, compose_eq_loaded]

/-! ### The phase steps and what they send -/

theorem countdownStep_of_odd_boundary {s : State} (h : s.se.h.toNat % 2 = 1) : countdownStep s = s :=
  if_pos (by omega)

theorem countdownStep_of_odd_countdown {s : State} (h : s.se.h.toNat % 2 = 0) (hodd : s.se.countdown.toNat % 2 = 1) :
    ∃ (ok : Bool) (io' : Io),
      s.io.Sends io' (frameBytes s.se.hc1 s.se.hc2 s.cfg.opcSyncCountdown s.se.countdown) .two ok
      ∧ countdownStep s = countdownAdvance { s with
          se.txBuffer :=
            loaded (frameBytes s.se.hc1 s.se.hc2 s.cfg.opcSyncCountdown s.se.countdown) s.se.txBuffer
          io := io' } := by
  obtain ⟨ok, io', hsends, hstate⟩ := sendFrame_sends s.cfg.opcSyncCountdown s.se.countdown .two s
  refine ⟨ok, io', hsends, ?_⟩
  rw [countdownStep, if_neg (by omega), countdownSend, if_pos hodd, hstate]

theorem countdownStep_of_even_countdown {s : State} (h : s.se.h.toNat % 2 = 0) (heven : s.se.countdown.toNat % 2 = 0) :
    countdownStep s = countdownAdvance s := by
  rw [countdownStep, if_neg (by omega), countdownSend, if_neg (by omega)]

/-- The end of a countdown step register by register (R175): the countdown falls by 2 modulo 256, and from 3 the engine
awaits the final. -/
theorem countdownAdvance_spec (s : State) :
    (countdownAdvance s).se.countdown.toNat = (s.se.countdown.toNat + 254) % 256
    ∧ (s.se.countdown = 3 → (countdownAdvance s).se.phase = .awaitingFinal
        ∧ (countdownAdvance s).se.ticksToFinal = dueIndex finalBase s.se)
    ∧ (s.se.countdown ≠ 3 → (countdownAdvance s).se.phase = s.se.phase
        ∧ (countdownAdvance s).se.ticksToFinal = s.se.ticksToFinal)
    ∧ countdownAdvance s = { s with se := { s.se with
        countdown := (countdownAdvance s).se.countdown, phase := (countdownAdvance s).se.phase
        ticksToFinal := (countdownAdvance s).se.ticksToFinal } } := by
  have hthree : s.se.countdown - 2 = 1 ↔ s.se.countdown = 3 := sub_eq_iff_eq_add
  obtain ⟨hone, h⟩ | ⟨hne, h⟩ := countdownAdvance_cases s <;> rw [h]
  · have hc := hthree.mp hone
    exact ⟨by rw [hc]; rfl, fun _ => ⟨rfl, rfl⟩, fun hne => absurd hc hne, rfl⟩
  · exact ⟨(BitVec.toNat_sub ..).trans (by rw [Nat.add_comm]; rfl), fun hc => absurd (hthree.mpr hc) hne,
      fun _ => ⟨rfl, rfl⟩, rfl⟩

/-- A countdown step at an even boundary, register by register, with what it sends (R175). -/
theorem countdownStep_spec {s : State} (h : s.se.h.toNat % 2 = 0) :
    (s.se.countdown.toNat % 2 = 1 → ∃ ok : Bool,
        s.io.Sends (countdownStep s).io
          (frameBytes s.se.hc1 s.se.hc2 s.cfg.opcSyncCountdown s.se.countdown) .two ok
        ∧ (countdownStep s).se.txBuffer =
            loaded (frameBytes s.se.hc1 s.se.hc2 s.cfg.opcSyncCountdown s.se.countdown) s.se.txBuffer)
    ∧ (s.se.countdown.toNat % 2 = 0 → (countdownStep s).io = s.io ∧ (countdownStep s).se.txBuffer = s.se.txBuffer)
    ∧ (countdownStep s).se.countdown.toNat = (s.se.countdown.toNat + 254) % 256
    ∧ (s.se.countdown = 3 → (countdownStep s).se.phase = .awaitingFinal
        ∧ (countdownStep s).se.ticksToFinal = dueIndex finalBase s.se)
    ∧ (s.se.countdown ≠ 3 → (countdownStep s).se.phase = s.se.phase
        ∧ (countdownStep s).se.ticksToFinal = s.se.ticksToFinal)
    ∧ (countdownStep s).se = { s.se with
        countdown := (countdownStep s).se.countdown, phase := (countdownStep s).se.phase
        ticksToFinal := (countdownStep s).se.ticksToFinal, txBuffer := (countdownStep s).se.txBuffer } := by
  obtain heven | hodd := Nat.mod_two_eq_zero_or_one s.se.countdown.toNat
  · obtain ⟨hcount, hthree, hother, hstate⟩ := countdownAdvance_spec s
    rw [← countdownStep_of_even_countdown h heven] at hcount hthree hother hstate
    refine ⟨fun hodd => by omega, fun _ => ?_, hcount, hthree, hother, ?_⟩ <;> rw [hstate]
    exact ⟨rfl, rfl⟩
  · obtain ⟨ok, io', hsends, hstep⟩ := countdownStep_of_odd_countdown h hodd
    obtain ⟨hcount, hthree, hother, hstate⟩ := countdownAdvance_spec { s with
      se.txBuffer := loaded (frameBytes s.se.hc1 s.se.hc2 s.cfg.opcSyncCountdown s.se.countdown) s.se.txBuffer
      io := io' }
    rw [← hstep] at hcount hthree hother hstate
    dsimp only [dueIndex] at hcount hthree hother
    refine ⟨fun _ => ⟨ok, ?_, ?_⟩, fun heven => by omega, hcount, hthree, hother, ?_⟩ <;> rw [hstate]
    exact hsends

theorem finalStep_of_due (pct : Byte) {s : State} (hdue : s.se.ticksToFinal = s.se.h) :
    ∃ (ok : Bool) (io' : Io), s.io.Sends io' (frameBytes s.se.hc1 s.se.hc2 s.cfg.opcSyncFinal 0) .two ok
      ∧ finalStep pct s = { s with
          se := { s.se with
            flag := false, phase := .locked, commandedPercent := pct, ticksToNextTx := dueIndex gapBase s.se
            txBuffer := loaded (frameBytes s.se.hc1 s.se.hc2 s.cfg.opcValveSet (scale pct))
              (loaded (frameBytes s.se.hc1 s.se.hc2 s.cfg.opcSyncFinal 0) s.se.txBuffer) }
          io := io' } := by
  obtain ⟨ok, io', hsends, hstate⟩ := sendFrame_sends s.cfg.opcSyncFinal 0 .two s
  refine ⟨ok, io', hsends, ?_⟩
  rw [finalStep, if_pos hdue, hstate]
  dsimp only
  rw [composeValveSet_eq_loaded]
  dsimp only [dueIndex]

theorem steadyStep_of_due (pct : Byte) (dbl : Bool) {s : State} (hdue : s.se.ticksToNextTx = s.se.h) :
    ∃ (ok : Bool) (io' : Io),
      s.io.Sends io' (frameBytes s.se.hc1 s.se.hc2 s.cfg.opcValveSet (scale pct)) (steadyCopies dbl) ok
      ∧ steadyStep pct dbl s = { s with
          se := { s.se with
            flag := if ok then meaningfullyOpen s.cfg pct else s.se.flag
            commandedPercent := pct, ticksToNextTx := dueIndex gapBase s.se
            txBuffer := loaded (frameBytes s.se.hc1 s.se.hc2 s.cfg.opcValveSet (scale pct)) s.se.txBuffer }
          io := io' } := by
  obtain ⟨io', hsends, hstate⟩ :=
    transmit_sends (composedLength s.cfg.opcValveSet (scale pct) s) (steadyCopies dbl) (composeValveSet pct s)
  rw [composeValveSet_se_txBuffer, ← compose_se_txBuffer, compose_take, composeValveSet_io] at hsends
  refine ⟨_, io', hsends, ?_⟩
  rw [steadyStep, if_pos hdue]
  dsimp only
  rw [hstate, composeValveSet_eq_loaded]
  dsimp only [dueIndex]

/-! ### A timing call at the interface -/

section
variable {s : State} (pct : Byte) (dbl : Bool) (h lowered : Nat)

/-- A phase step that leaves the interface alone makes a timing call that sends nothing. -/
theorem sendsNothing_of_act (hio : (act (preparePct pct) dbl (atBoundary h lowered s)).io = s.io) :
    SendsNothing s (actAndRespond pct dbl (atBoundary h lowered s)) := by
  rw [SendsNothing, actAndRespond, respondOk, respond]
  dsimp only
  rw [hio]
  rfl

theorem sendsOne_of_act {frame : List Byte} {copies : Copies} {ok : Bool}
    (hsends : s.io.Sends (act (preparePct pct) dbl (atBoundary h lowered s)).io frame copies ok) :
    SendsOne s (actAndRespond pct dbl (atBoundary h lowered s)) frame copies ok := by
  obtain ⟨oks, hlen, hok, hsupply, hio⟩ := hsends
  refine ⟨oks, hlen, hok, hsupply, ?_⟩
  rw [actAndRespond, respondOk, respond]
  dsimp only
  rw [hio]
  rfl

end

theorem act_of_invalid_pair (pct : Byte) (dbl : Bool) {s : State} (hp : s.se.phase = .unsynced)
    (hpair : ¬ (s.se.hc1.toNat ≤ 99 ∧ s.se.hc2.toNat ≤ 99)) : act pct dbl s = s := by
  obtain ⟨_, _, h⟩ | ⟨_, hvalid, _⟩ | ⟨hq, _⟩ | ⟨hq, _⟩ | ⟨hq, _⟩ := act_cases pct dbl s
  · exact h
  · exact absurd ((housePairValid_iff _).mp hvalid) hpair
  all_goals exact absurd (hp.symm.trans hq) (by decide)

theorem act_of_valid_pair (pct : Byte) (dbl : Bool) {s : State} (hp : s.se.phase = .unsynced)
    (hpair : s.se.hc1.toNat ≤ 99 ∧ s.se.hc2.toNat ≤ 99) :
    act pct dbl s = countdownStep { s with se.phase := .countingDown, se.countdown := countdownStart } := by
  obtain ⟨_, hinvalid, _⟩ | ⟨_, _, h⟩ | ⟨hq, _⟩ | ⟨hq, _⟩ | ⟨hq, _⟩ := act_cases pct dbl s
  · exact absurd ((housePairValid_iff _).mpr hpair) (by rw [hinvalid]; decide)
  · exact h
  all_goals exact absurd (hp.symm.trans hq) (by decide)

end Sys2Proof.Machine
end

section
/-!
Proofs about the SyncEngine's requests (41_syncengine.md): a timing call in each phase (R171 to R183, R191), the order of the
phases (R176, R187), and the reset, the configuration and the queries (R188 to R196, R236).
-/
namespace Sys2Proof.Machine

/-! ### The reset, the configuration and the queries -/

/-- Settles O32. -/
theorem syncResetReturnsTheEngineToUnsynced : Obligations.SyncResetReturnsTheEngineToUnsynced := fun _ => rfl

/-- Settles O33. -/
theorem setHouseCodeResetsExactlyOnAChange : Obligations.SetHouseCodeResetsExactlyOnAChange := by
  intro s hc1 hc2
  obtain ⟨hsame, h⟩ | ⟨hnew, h⟩ := exec_setHouseCode_cases hc1 hc2 s <;> rw [h]
  · obtain ⟨rfl, rfl⟩ := Prod.mk.inj hsame
    exact ⟨fun _ _ => rfl, fun hne => absurd hne (by simp)⟩
  · exact ⟨fun h1 h2 => absurd (Prod.ext h1 h2) hnew, fun _ => rfl⟩

/-- Settles O34. -/
theorem queriesAnswerTheirRegister : Obligations.QueriesAnswerTheirRegister := by
  refine fun s => ⟨fun hp => ?_, fun hp => ?_, rfl, rfl, rfl⟩
  · show execIsLocked s = _
    rw [execIsLocked, decide_eq_true hp]
    rfl
  · show execIsLocked s = _
    rw [execIsLocked, decide_eq_false hp]
    rfl

/-! ### A timing call on an Unsynced engine -/

theorem needMore_of_unsynced {s : State} (hp : s.se.phase = .unsynced) : needMore s = false := by
  rw [needMore, hp]

/-- Settles O21. -/
theorem anInvalidPairKeepsTheEngineUnsynced : Obligations.AnInvalidPairKeepsTheEngineUnsynced := by
  intro s i pct dbl h lowered passed hcall hp hpair
  have hmore : needMore (atBoundary h lowered s) = false := needMore_of_unsynced hp
  have hse := atBoundary_se_of_idle h lowered s (by rw [hp]; decide) (by rw [hp]; decide)
  have hstate : atBoundary h lowered s = { s with se.h := BitVec.ofNat 8 h } := by
    rw [← hse]
    rfl
  rw [hcall.exec_eq, actAndRespond, act_of_invalid_pair (s := atBoundary h lowered s) _ _ hp hpair, hmore, hstate]
  rfl

/-- The state in which an Unsynced engine with a valid pair comes to the countdown step (R173, R174). -/
def handshakeStarted (h : Nat) (s : State) : State :=
  { s with se.h := BitVec.ofNat 8 h, se.phase := .countingDown, se.countdown := 241 }

theorem act_atBoundary_of_valid_pair (pct : Byte) (dbl : Bool) (h lowered : Nat) {s : State}
    (hp : s.se.phase = .unsynced) (hpair : s.se.hc1.toNat ≤ 99 ∧ s.se.hc2.toNat ≤ 99) :
    act pct dbl (atBoundary h lowered s) = countdownStep (handshakeStarted h s) := by
  have hse := atBoundary_se_of_idle h lowered s (by rw [hp]; decide) (by rw [hp]; decide)
  have hstate : { atBoundary h lowered s with se.phase := .countingDown, se.countdown := countdownStart }
      = handshakeStarted h s := by
    dsimp only
    rw [hse]
    rfl
  rw [act_of_valid_pair (s := atBoundary h lowered s) _ _ hp hpair, hstate]

/-- Settles O22: the handshake starts at 241 and goes on to the countdown step. -/
theorem aTimingCallStartsTheHandshake : Obligations.ATimingCallStartsTheHandshake := by
  intro s i pct dbl h lowered passed hcall hp h1 h2
  have hact := act_atBoundary_of_valid_pair (preparePct pct) dbl h lowered hp ⟨h1, h2⟩
  have hboundary : (handshakeStarted h s).se.h.toNat = h := hcall.boundary_toNat
  obtain ⟨hcfg, _, _, _, hag⟩ := hcall.frame
  refine ⟨_, hcall.exec_eq, hcfg, hag, fun hodd => ?_, fun heven => ?_⟩ <;> rw [actAndRespond_se]
  · rw [countdownStep_of_odd_boundary (by rwa [hboundary])] at hact
    exact ⟨by rw [hact]; rfl, sendsNothing_of_act _ _ _ _ (by rw [hact]; rfl)⟩
  · obtain ⟨hsend, _, hcount, _, hphase, hregs⟩ := countdownStep_spec (s := handshakeStarted h s) (by rwa [hboundary])
    rw [← hact] at hsend hcount hphase hregs
    obtain ⟨ok, hsends, hbuffer⟩ := hsend (show (241 : Byte).toNat % 2 = 1 by decide)
    obtain ⟨hcounting, hfinal⟩ := hphase (show (241 : Byte) ≠ 3 by decide)
    refine ⟨ok, ?_, sendsOne_of_act _ _ _ _ hsends⟩
    have hnext := BitVec.eq_of_toNat_eq (y := 239) (hcount.trans (show ((241 : Byte).toNat + 254) % 256 = 239 by decide))
    rw [hregs, hbuffer, hcounting, hfinal, hnext]
    dsimp only [handshakeStarted]

/-! ### A timing call in a later phase -/

section
variable {s : State} {i : Instr} {pct : Byte} {dbl : Bool} {h lowered passed : Nat}

/-- Counted from the boundary of the call, the final delay does not overflow the due index (R36). -/
theorem TimingCall.finalIndex_toNat (hcall : TimingCall s i pct dbl h lowered passed) :
    (dueIndex finalBase (atBoundary h lowered s).se).toNat = h + delayOf s.se + 8 := by
  have hboundary : (atBoundary h lowered s).se.h.toNat = h := hcall.boundary_toNat
  have hle := hcall.boundary_lt.le.trans (boundaries_le s.cfg)
  have hbase : finalBase.toNat = 8 := rfl
  rw [dueIndex_toNat _ _ (by omega), hbase, hboundary]
  rfl

theorem TimingCall.gapIndex_eq (hcall : TimingCall s i pct dbl h lowered passed) :
    dueIndex gapBase (atBoundary h lowered s).se = BitVec.ofNat 8 (h + steadyPeriod s.se) := by
  rw [← hcall.gapIndex_toNat s.se, BitVec.ofNat_toNat, BitVec.setWidth_eq]
  rfl

end

/-- Settles O23. -/
theorem theCountdownStepSendsAndCountsDown : Obligations.TheCountdownStepSendsAndCountsDown := by
  intro s i pct dbl h lowered passed hcall hp
  have hact := act_of_countingDown (preparePct pct) dbl (atBoundary h lowered s) hp
  have hse := atBoundary_se_of_idle h lowered s (by rw [hp]; decide) (by rw [hp]; decide)
  have hboundary : (atBoundary h lowered s).se.h.toNat = h := hcall.boundary_toNat
  obtain ⟨hcfg, _, _, _, hag⟩ := hcall.frame
  refine ⟨_, hcall.exec_eq, hcfg, hag, fun hodd => ?_, fun heven => ?_⟩ <;> rw [actAndRespond_se]
  · rw [countdownStep_of_odd_boundary (by rwa [hboundary])] at hact
    exact ⟨by rw [hact, hse], sendsNothing_of_act _ _ _ _ (by rw [hact]; rfl)⟩
  · obtain ⟨hodd, heven', hcount, hthree, hother, hregs⟩ :=
      countdownStep_spec (s := atBoundary h lowered s) (by rwa [hboundary])
    rw [← hact] at hodd heven' hcount hthree hother hregs
    refine ⟨fun hc => ?_, fun hc => ?_, hcount, fun hc => ?_, fun hc => ?_, ?_⟩
    · obtain ⟨ok, hsends, hbuffer⟩ := hodd hc
      exact ⟨ok, sendsOne_of_act _ _ _ _ hsends, hbuffer⟩
    · obtain ⟨hio, hbuffer⟩ := heven' hc
      exact ⟨sendsNothing_of_act _ _ _ _ hio, hbuffer⟩
    · obtain ⟨hawaiting, hfinal⟩ := hthree hc
      refine ⟨hawaiting, ?_⟩
      rw [hfinal, hcall.finalIndex_toNat]
    · obtain ⟨hcounting, hfinal⟩ := hother hc
      rw [hse] at hcounting hfinal
      exact ⟨hcounting.trans hp, hfinal⟩
    · rw [hse] at hregs
      exact hregs

/-- Settles O24. -/
theorem theSyncFinalLocksTheEngine : Obligations.TheSyncFinalLocksTheEngine := by
  intro s i pct dbl h lowered passed hcall hp hdue
  have hact := act_of_awaitingFinal (preparePct pct) dbl (atBoundary h lowered s) hp
  have hse := atBoundary_se_of_awaitingFinal h lowered s hp
  have hindex := (hcall.lowerIndex_eq_iff s.se.ticksToFinal).mpr hdue
  obtain ⟨ok, io', hsends, hstep⟩ :=
    finalStep_of_due (preparePct pct) (s := atBoundary h lowered s) (by rw [hse, hindex])
  obtain ⟨hcfg, _, _, _, hag⟩ := hcall.frame
  rw [hstep] at hact
  refine ⟨_, ok, preparePct pct, hcall.exec_eq, hcfg, hag, preparePct_toNat pct, sendsOne_of_act _ _ _ _ ?_, ?_⟩
  · rw [hact]
    exact hsends
  · rw [actAndRespond_se, hact, hcall.gapIndex_eq, hse, hindex]
    dsimp only
    rfl

/-- Settles O25. -/
theorem theSteadySendCarriesTheCallsPercent : Obligations.TheSteadySendCarriesTheCallsPercent := by
  intro s i pct dbl h lowered passed hcall hp hdue
  have hact := act_of_locked (preparePct pct) dbl (atBoundary h lowered s) hp
  have hse := atBoundary_se_of_locked h lowered s hp
  have hindex := (hcall.lowerIndex_eq_iff s.se.ticksToNextTx).mpr hdue
  obtain ⟨ok, io', hsends, hstep⟩ :=
    steadyStep_of_due (preparePct pct) dbl (s := atBoundary h lowered s) (by rw [hse, hindex])
  obtain ⟨hcfg, _, _, _, hag⟩ := hcall.frame
  rw [hstep] at hact
  refine ⟨_, ok, preparePct pct, hcall.exec_eq, hcfg, hag, preparePct_toNat pct, sendsOne_of_act _ _ _ _ ?_, ?_, ?_, ?_⟩
  · rw [hact]
    exact hsends
  · rintro rfl
    rw [actAndRespond_se, hact]
    exact decide_eq_true_iff
  · rintro rfl
    rw [actAndRespond_se, hact]
    rfl
  · rw [actAndRespond_se, hact, hcall.gapIndex_eq, hse]
    dsimp only
    rfl

/-- Settles O26. -/
theorem aCallBeforeTheDueBoundarySendsNothing : Obligations.ACallBeforeTheDueBoundarySendsNothing := by
  intro s i pct dbl h lowered passed hcall
  obtain ⟨hcfg, _, _, _, hag⟩ := hcall.frame
  refine ⟨fun hp hwait => ?_, fun hp hwait => ?_⟩
  · have hact := hcall.act_of_final_not_due hp hwait (preparePct pct)
    refine ⟨_, hcall.exec_eq, hcfg, hag, sendsNothing_of_act _ _ _ _ (by rw [hact, atBoundary_io]), ?_⟩
    rw [actAndRespond_se, hact, atBoundary_se_of_awaitingFinal h lowered s hp]
    rfl
  · have hact := hcall.act_of_steady_not_due hp hwait (preparePct pct)
    refine ⟨_, hcall.exec_eq, hcfg, hag, sendsNothing_of_act _ _ _ _ (by rw [hact, atBoundary_io]), ?_⟩
    rw [actAndRespond_se, hact, atBoundary_se_of_locked h lowered s hp]
    rfl

/-! ### The order of the phases -/

theorem countdownStep_phase (s : State) :
    (countdownStep s).se.phase = s.se.phase
    ∨ (s.se.countdown = 3 ∧ (countdownStep s).se.phase = .awaitingFinal) := by
  obtain ⟨_, h⟩ | ⟨hc, _, h⟩ | ⟨_, _, _, h⟩ | ⟨_, h⟩ := countdownStep_cases s <;> rw [h]
  · exact .inl rfl
  · exact .inr ⟨hc, rfl⟩
  · exact .inl rfl
  · exact .inl rfl

/-- A phase step goes at most one phase on (R173, R187). -/
theorem act_phase (pct : Byte) (dbl : Bool) (s : State) :
    (act pct dbl s).se.phase = s.se.phase
    ∨ (s.se.phase = .unsynced ∧ (act pct dbl s).se.phase = .countingDown ∧ s.se.hc1.toNat ≤ 99 ∧ s.se.hc2.toNat ≤ 99)
    ∨ (s.se.phase = .countingDown ∧ (act pct dbl s).se.phase = .awaitingFinal ∧ s.se.countdown = 3)
    ∨ (s.se.phase = .awaitingFinal ∧ (act pct dbl s).se.phase = .locked) := by
  obtain ⟨_, _, h⟩ | ⟨hp, hpair, h⟩ | ⟨hp, h⟩ | ⟨hp, h⟩ | ⟨_, h⟩ := act_cases pct dbl s <;> rw [h]
  · exact .inl rfl
  · obtain hsame | ⟨hc, _⟩ :=
      countdownStep_phase { s with se.phase := .countingDown, se.countdown := countdownStart }
    · exact .inr (.inl ⟨hp, hsame, (housePairValid_iff _).mp hpair⟩)
    · exact absurd hc (show (241 : Byte) ≠ 3 by decide)
  · obtain hsame | ⟨hc, hnext⟩ := countdownStep_phase s
    · exact .inl hsame
    · exact .inr (.inr (.inl ⟨hp, hnext, hc⟩))
  · obtain ⟨_, hstep⟩ | ⟨_, _, hstep⟩ := finalStep_cases pct s <;> rw [hstep]
    · exact .inl rfl
    · exact .inr (.inr (.inr ⟨hp, rfl⟩))
  · obtain ⟨_, hstep⟩ | ⟨_, _, _, hstep⟩ := steadyStep_cases pct dbl s <;> rw [hstep] <;> exact .inl rfl

/-- Settles O35: of the four requests that write the phase, the timing calls go on with the phases and the other two reset. -/
theorem phasesFollowEachOtherInOrder : Obligations.PhasesFollowEachOtherInOrder := by
  intro s t i h hne
  cases hwrites : writesEngine i with
  | false =>
    obtain ⟨_, _, _, hengine, _⟩ := everyInstructionLeavesTheOtherRegisters s t i h
    obtain ⟨hphase, _⟩ := hengine hwrites
    exact absurd hphase hne
  | true =>
    cases i with
    | syncFirst | syncNext =>
      obtain ⟨_, _, _, _, rfl⟩ | ⟨pct, dbl, boundary, lowered, _, _, rfl⟩ := exec_timing h rfl
      · exact absurd rfl hne
      obtain hsame | ⟨hp, hq, h1, h2⟩ | ⟨hp, hq, hc⟩ | ⟨hp, hq⟩ :=
        act_phase (preparePct pct) dbl (atBoundary boundary lowered s)
      · exact absurd hsame hne
      · exact .inl ⟨hp, hq, rfl, h1, h2⟩
      · exact .inr (.inl ⟨hp, hq, rfl, hc⟩)
      · exact .inr (.inr (.inl ⟨hp, hq, rfl⟩))
    | syncReset =>
      obtain rfl := eq_of_exec rfl h
      exact .inr (.inr (.inr ⟨rfl, .inl rfl⟩))
    | setHouseCode hc1 hc2 =>
      obtain ⟨_, hr⟩ | ⟨hnew, hr⟩ := exec_setHouseCode_cases hc1 hc2 s <;> obtain rfl := eq_of_exec hr h
      · exact absurd rfl hne
      · refine .inr (.inr (.inr ⟨rfl, .inr ⟨hc1, hc2, rfl, ?_⟩⟩))
        rwa [Ne, Prod.mk.injEq, not_and_or] at hnew
    | _ => cases hwrites

end Sys2Proof.Machine
end

section
/-!
Rules about half-second boundaries counted absolutely (R36, R37, R298, R300): which boundary a due index names, and what the
call of a boundary does in each phase.
-/
namespace Sys2Proof.Machine

/-! ### The boundary that a due index names -/

/-- The boundary, counted absolutely, that a due index names in the minor cycle of boundary `b`. -/
def dueBoundary (m b : Nat) (index : Byte) : Nat := b - b % m + index.toNat

/-- By how much the call at boundary `b` lowers a due index (R171). -/
def loweredAt (m b : Nat) : Nat := if b % m = 0 then m else 0

section
variable {m b : Nat} {index : Byte}

theorem loweredAt_succ (hm : m = 2 ∨ m = 4) :
    ((b + 1) % m = 0 ∧ b % m + 1 = m ∧ loweredAt m (b + 1) = m)
    ∨ ((b + 1) % m = b % m + 1 ∧ loweredAt m (b + 1) = 0) := by
  obtain hstart | hstart := eq_or_ne ((b + 1) % m) 0
  · exact .inl ⟨hstart, by obtain rfl | rfl := hm <;> omega, if_pos hstart⟩
  · exact .inr ⟨by obtain rfl | rfl := hm <;> omega, if_neg hstart⟩

/-- An index that is ahead names the same boundary after the next call has lowered it (R38). -/
theorem dueBoundary_succ (hm : m = 2 ∨ m = 4) (hahead : b < dueBoundary m b index) :
    dueBoundary m (b + 1) (BitVec.ofNat 8 (index.toNat - loweredAt m (b + 1))) = dueBoundary m b index := by
  have hmod := Nat.mod_le b m
  have hindex := index.isLt
  rw [dueBoundary] at hahead
  rw [dueBoundary, dueBoundary, BitVec.toNat_ofNat, Nat.mod_eq_of_lt ((Nat.sub_le ..).trans_lt hindex)]
  obtain ⟨hstart, hlast, hlowered⟩ | ⟨hnext, hlowered⟩ := loweredAt_succ (b := b) hm
  · rw [hstart, hlowered]
    omega
  · rw [hnext, hlowered]
    omega

theorem due_iff_dueBoundary (hm : m = 2 ∨ m = 4) (hahead : b < dueBoundary m b index) :
    index.toNat - loweredAt m (b + 1) = (b + 1) % m ↔ dueBoundary m b index = b + 1 := by
  have hmod := Nat.mod_le b m
  rw [dueBoundary] at hahead ⊢
  obtain ⟨hstart, hlast, hlowered⟩ | ⟨hnext, hlowered⟩ := loweredAt_succ (b := b) hm
  · rw [hstart, hlowered]
    omega
  · rw [hnext, hlowered]
    omega

/-- What a call at boundary `b` sets `delay` half-seconds ahead names boundary `b + delay` (R181). -/
theorem dueBoundary_of_toNat {delay : Nat} (hindex : index.toNat = b % m + delay) : dueBoundary m b index = b + delay := by
  have hmod := Nat.mod_le b m
  rw [dueBoundary, hindex]
  omega

theorem toNat_of_dueBoundary {delay : Nat} (hdue : dueBoundary m b index = b + delay) : index.toNat = b % m + delay := by
  have hmod := Nat.mod_le b m
  rw [dueBoundary] at hdue
  omega

/-- With no call the index stays, and names the same boundary within the minor cycle. -/
theorem dueBoundary_of_skip (hinside : (b + 1) % m = b % m + 1) : dueBoundary m (b + 1) index = dueBoundary m b index := by
  rw [dueBoundary, dueBoundary, hinside, Nat.add_sub_add_right]

/-- An index of at least `M` names a boundary beyond the minor cycle. -/
theorem lt_dueBoundary (hlt : b % m + 1 < m) (hbeyond : m ≤ index.toNat) : b + 1 < dueBoundary m b index := by
  have hmod := Nat.mod_le b m
  rw [dueBoundary]
  omega

/-- An index ahead names a boundary ahead, and the other way round. -/
theorem lt_dueBoundary_iff : b < dueBoundary m b index ↔ b % m < index.toNat := by
  have hmod := Nat.mod_le b m
  rw [dueBoundary]
  omega

end

/-! ### The call of a boundary -/

/-- The call of boundary `b` is one that the engine admits: a SYNC_FIRST, or the SYNC_NEXT after the last call. -/
def CallsNext (b : Nat) (s : State) : Prop := b % s.cfg.boundaries = 0 ∨ b % s.cfg.boundaries = s.se.h.toNat + 1

theorem callsNext_of_clock {b : Nat} {s : State} (hclock : s.se.h.toNat = b % s.cfg.boundaries) : CallsNext (b + 1) s := by
  rw [CallsNext, hclock]
  obtain ⟨hstart, _⟩ | ⟨hnext, _⟩ := loweredAt_succ (b := b) (boundaries_cases s.cfg)
  · exact .inl hstart
  · exact .inr hnext

theorem CallsNext.timingCall {b : Nat} {s : State} (hcalls : CallsNext b s) (pct : Nat → Byte) (dbl : Nat → Bool) :
    ∃ passed : Nat, TimingCall s (boundaryCall s.cfg.boundaries b pct dbl) (pct b) (dbl b) (b % s.cfg.boundaries)
      (loweredAt s.cfg.boundaries b) passed := by
  have hm := boundaries_cases s.cfg
  rw [boundaryCall, loweredAt]
  split
  · exact ⟨_, .inl ⟨rfl, ‹_›, rfl, rfl⟩⟩
  · exact ⟨1, .inr ⟨rfl, hcalls.resolve_left ‹_›, Nat.mod_lt _ (by omega), rfl, rfl⟩⟩

theorem countdownStep_h (s : State) : (countdownStep s).se.h = s.se.h := by
  obtain ⟨_, h⟩ | ⟨_, _, h⟩ | ⟨_, _, _, h⟩ | ⟨_, h⟩ := countdownStep_cases s <;> rw [h]

theorem act_h (pct : Byte) (dbl : Bool) (s : State) : (act pct dbl s).se.h = s.se.h := by
  obtain ⟨_, _, h⟩ | ⟨_, _, h⟩ | ⟨_, h⟩ | ⟨_, h⟩ | ⟨_, h⟩ := act_cases pct dbl s <;> rw [h]
  · exact countdownStep_h { s with se.phase := .countingDown, se.countdown := countdownStart }
  · exact countdownStep_h s
  · obtain ⟨_, hstep⟩ | ⟨_, _, hstep⟩ := finalStep_cases pct s <;> rw [hstep]
  · obtain ⟨_, hstep⟩ | ⟨_, _, _, hstep⟩ := steadyStep_cases pct dbl s <;> rw [hstep]

/-- In every phase the call of boundary `b` moves the clock there and leaves the house codes (R171, R172). -/
theorem CallsNext.exec {b : Nat} {s : State} (hcalls : CallsNext b s) (pct : Nat → Byte) (dbl : Nat → Bool) :
    ∃ t : State, exec (boundaryCall s.cfg.boundaries b pct dbl) s = .next t ∧ TimingFrame s t
      ∧ t.se.h.toNat = b % s.cfg.boundaries := by
  obtain ⟨_, hcall⟩ := hcalls.timingCall pct dbl
  refine ⟨_, hcall.exec_eq, hcall.frame, ?_⟩
  rw [actAndRespond_se, act_h]
  exact hcall.boundary_toNat

/-- From `s` to `t` these frames are sent, and the response tells the caller `needMore` (R182). -/
def Sent (frames : List (List Byte × Copies)) (s t : State) : Prop :=
  t.io.events.map TxEvent.sent = s.io.events.map TxEvent.sent ++ frames ∧ askedForMore t = needMore t

theorem askedForMore_of_responses {t : State} {before : List (List Byte)}
    (h : t.io.responses = before ++ [[0x00, boolByte (needMore t)]]) : askedForMore t = needMore t := by
  rw [askedForMore, h, List.getLast?_concat]
  cases needMore t <;> rfl

theorem SendsNothing.sent {s t : State} (h : SendsNothing s t) : Sent [] s t :=
  ⟨by rw [h, List.append_nil], askedForMore_of_responses (congrArg Io.responses h)⟩

theorem SendsOne.sent {s t : State} {frame : List Byte} {copies : Copies} {ok : Bool} (h : SendsOne s t frame copies ok) :
    Sent [(frame, copies)] s t := by
  obtain ⟨_, _, _, _, hio⟩ := h
  exact ⟨by rw [hio, List.map_append]; rfl, askedForMore_of_responses (congrArg Io.responses hio)⟩

section
variable {s t : State} {b : Nat} {pct : Nat → Byte} {dbl : Nat → Bool}

/-- The percent that boundary `b`'s call carries (R170), as a steady send has it. -/
def callPercent (pct : Nat → Byte) (b : Nat) : Byte := BitVec.ofNat 8 (min (pct b).toNat 100)

theorem eq_callPercent {percent : Byte} (h : percent.toNat = min (pct b).toNat 100) : percent = callPercent pct b := by
  rw [callPercent, ← h, BitVec.ofNat_toNat, BitVec.setWidth_eq]

theorem callPercent_toNat (pct : Nat → Byte) (b : Nat) : (callPercent pct b).toNat = min (pct b).toNat 100 := by
  rw [callPercent, BitVec.toNat_ofNat]
  omega

theorem CallsNext.awaiting_early (hcalls : CallsNext (b + 1) s) (hp : s.se.phase = .awaitingFinal)
    (hearly : b + 1 < dueBoundary s.cfg.boundaries b s.se.ticksToFinal)
    (hexec : Machine.exec (boundaryCall s.cfg.boundaries (b + 1) pct dbl) s = .next t) :
    t.se.phase = .awaitingFinal
    ∧ dueBoundary s.cfg.boundaries (b + 1) t.se.ticksToFinal = dueBoundary s.cfg.boundaries b s.se.ticksToFinal
    ∧ SendsNothing s t := by
  obtain ⟨_, hcall⟩ := hcalls.timingCall pct dbl
  have hm := boundaries_cases s.cfg
  have hahead := Nat.lt_of_succ_lt hearly
  obtain ⟨hfinal, _⟩ := aCallBeforeTheDueBoundarySendsNothing _ _ _ _ _ _ _ hcall
  obtain ⟨t', hexec', _, _, hsends, hse⟩ := hfinal hp (mt (due_iff_dueBoundary hm hahead).mp hearly.ne')
  obtain rfl := eq_of_exec hexec' hexec
  rw [hse]
  exact ⟨hp, dueBoundary_succ hm hahead, hsends⟩

theorem CallsNext.awaiting_due (hcalls : CallsNext (b + 1) s) (hp : s.se.phase = .awaitingFinal)
    (hdue : dueBoundary s.cfg.boundaries b s.se.ticksToFinal = b + 1)
    (hexec : Machine.exec (boundaryCall s.cfg.boundaries (b + 1) pct dbl) s = .next t) :
    t.se.phase = .locked
    ∧ dueBoundary s.cfg.boundaries (b + 1) t.se.ticksToNextTx = b + 1 + steadyPeriod s.se
    ∧ Sent [(frameBytes s.se.hc1 s.se.hc2 s.cfg.opcSyncFinal 0, .two)] s t := by
  obtain ⟨_, hcall⟩ := hcalls.timingCall pct dbl
  have hm := boundaries_cases s.cfg
  have hnow := (due_iff_dueBoundary hm (by omega)).mpr hdue
  obtain ⟨t', _, _, hexec', _, _, _, hsends, hse⟩ := theSyncFinalLocksTheEngine _ _ _ _ _ _ _ hcall hp hnow
  obtain rfl := eq_of_exec hexec' hexec
  refine ⟨by rw [hse], dueBoundary_of_toNat ?_, hsends.sent⟩
  rw [hse, ← hcall.gapIndex_eq]
  exact hcall.gapIndex_toNat s.se

theorem CallsNext.locked_early (hcalls : CallsNext (b + 1) s) (hp : s.se.phase = .locked)
    (hearly : b + 1 < dueBoundary s.cfg.boundaries b s.se.ticksToNextTx)
    (hexec : Machine.exec (boundaryCall s.cfg.boundaries (b + 1) pct dbl) s = .next t) :
    t.se.phase = .locked
    ∧ dueBoundary s.cfg.boundaries (b + 1) t.se.ticksToNextTx = dueBoundary s.cfg.boundaries b s.se.ticksToNextTx
    ∧ SendsNothing s t := by
  obtain ⟨_, hcall⟩ := hcalls.timingCall pct dbl
  have hm := boundaries_cases s.cfg
  have hahead := Nat.lt_of_succ_lt hearly
  obtain ⟨_, hsteady⟩ := aCallBeforeTheDueBoundarySendsNothing _ _ _ _ _ _ _ hcall
  obtain ⟨t', hexec', _, _, hsends, hse⟩ := hsteady hp (mt (due_iff_dueBoundary hm hahead).mp hearly.ne')
  obtain rfl := eq_of_exec hexec' hexec
  rw [hse]
  exact ⟨hp, dueBoundary_succ hm hahead, hsends⟩

theorem CallsNext.locked_due (hcalls : CallsNext (b + 1) s) (hp : s.se.phase = .locked)
    (hdue : dueBoundary s.cfg.boundaries b s.se.ticksToNextTx = b + 1)
    (hexec : Machine.exec (boundaryCall s.cfg.boundaries (b + 1) pct dbl) s = .next t) :
    t.se.phase = .locked
    ∧ dueBoundary s.cfg.boundaries (b + 1) t.se.ticksToNextTx = b + 1 + steadyPeriod s.se
    ∧ Sent [(frameBytes s.se.hc1 s.se.hc2 s.cfg.opcValveSet (scale (callPercent pct (b + 1))),
        if dbl (b + 1) then .two else .one)] s t := by
  obtain ⟨_, hcall⟩ := hcalls.timingCall pct dbl
  have hm := boundaries_cases s.cfg
  have hnow := (due_iff_dueBoundary hm (by omega)).mpr hdue
  obtain ⟨t', _, percent, hexec', _, _, hpercent, hsends, _, _, hse⟩ :=
    theSteadySendCarriesTheCallsPercent _ _ _ _ _ _ _ hcall hp hnow
  obtain rfl := eq_of_exec hexec' hexec
  rw [eq_callPercent hpercent] at hsends
  refine ⟨by rw [hse]; exact hp, dueBoundary_of_toNat ?_, hsends.sent⟩
  rw [hse, ← hcall.gapIndex_eq]
  exact hcall.gapIndex_toNat s.se

end

end Sys2Proof.Machine
end

section
/-!
Proofs about the timeline of a handshake (R186): the engine's registers at every boundary of it, and a caller that makes every
call.
-/
namespace Sys2Proof.Machine

/-! ### What the timeline places at a boundary -/

section
variable {s : State} {t1 b : Nat} {pct : Nat → Byte} {dbl : Nat → Bool}

/-- The last countdown frame comes before the sync-final. -/
theorem countdown_lt_final (t1 delay : Nat) : t1 + 238 < t1 + 246 + delay :=
  Nat.lt_add_right delay (Nat.add_lt_add_left (by decide) t1)

theorem not_countdown_boundary (h : t1 + 238 < b) : ¬ (t1 ≤ b ∧ b ≤ t1 + 238 ∧ (b - t1) % 2 = 0) :=
  fun ⟨_, hle, _⟩ => h.not_ge hle

theorem timelineFrames_of_countdown (hlow : t1 ≤ b) (hhigh : b ≤ t1 + 238) (heven : (b - t1) % 2 = 0) :
    timelineFrames s t1 pct dbl b =
      [(frameBytes s.se.hc1 s.se.hc2 s.cfg.opcSyncCountdown (BitVec.ofNat 8 (241 - (b - t1))), .two)] :=
  if_pos ⟨hlow, hhigh, heven⟩

theorem timelineFrames_of_final (hb : b = t1 + 246 + delayOf s.se) :
    timelineFrames s t1 pct dbl b = [(frameBytes s.se.hc1 s.se.hc2 s.cfg.opcSyncFinal 0, .two)] :=
  (if_neg (not_countdown_boundary (hb ▸ countdown_lt_final t1 _))).trans (if_pos hb)

theorem timelineFrames_of_steady (hb : t1 + 246 + delayOf s.se < b)
    (hperiod : (b - (t1 + 246 + delayOf s.se)) % steadyPeriod s.se = 0) :
    timelineFrames s t1 pct dbl b =
      [(frameBytes s.se.hc1 s.se.hc2 s.cfg.opcValveSet (scale (callPercent pct b)), if dbl b then .two else .one)] :=
  (if_neg (not_countdown_boundary ((countdown_lt_final t1 _).trans hb))).trans
    ((if_neg hb.ne').trans (if_pos ⟨hb, hperiod⟩))

theorem timelineFrames_of_handshake (hb : b < t1 + 246 + delayOf s.se)
    (hcount : ¬ (t1 ≤ b ∧ b ≤ t1 + 238 ∧ (b - t1) % 2 = 0)) : timelineFrames s t1 pct dbl b = [] :=
  (if_neg hcount).trans ((if_neg hb.ne).trans (if_neg (fun ⟨hlate, _⟩ => hb.asymm hlate)))

theorem timelineFrames_of_between (hb : t1 + 246 + delayOf s.se < b)
    (hperiod : (b - (t1 + 246 + delayOf s.se)) % steadyPeriod s.se ≠ 0) : timelineFrames s t1 pct dbl b = [] :=
  (if_neg (not_countdown_boundary ((countdown_lt_final t1 _).trans hb))).trans
    ((if_neg hb.ne').trans (if_neg (fun ⟨_, hdue⟩ => hperiod hdue)))

end

/-- Between two multiples of a period, no more than one period apart, there is no third. -/
theorem mod_ne_zero_of_between {base due b period : Nat} (hdue : (due - base) % period = 0) (hbase : base ≤ b)
    (hlt : b < due) (hgap : due < b + period) : (b - base) % period ≠ 0 := by
  intro hb
  have hdvd := Nat.dvd_sub (Nat.dvd_of_mod_eq_zero hdue) (Nat.dvd_of_mod_eq_zero hb)
  rw [tsub_tsub_tsub_cancel_right hbase] at hdvd
  exact (Nat.le_of_dvd (Nat.sub_pos_of_lt hlt) hdvd).not_gt (Nat.sub_lt_left_of_lt_add hlt.le hgap)

/-! ### The engine on the timeline -/

theorem eq_add_of_one_period {base due period : Nat} (hlt : base < due) (hgap : due ≤ base + period)
    (hle : period ≤ due - base) : due = base + period :=
  le_antisymm hgap (Nat.add_le_of_le_sub' hlt.le hle)

/-- The registers after boundary `b` of a handshake of `s₀`'s pair whose first even boundary is `t1` (R186). -/
inductive OnTimeline (s₀ : State) (t1 b : Nat) (s : State) : Prop
  /-- The countdown has fallen by 2 at each even boundary so far. -/
  | countingDown (hp : s.se.phase = .countingDown) (hlow : t1 ≤ b + 1) (hhigh : b < t1 + 238)
      (hcount : s.se.countdown.toNat + (b + 2) = 241 + b % 2 + t1)
  | awaitingFinal (hp : s.se.phase = .awaitingFinal) (hlow : t1 + 238 ≤ b) (hhigh : b < t1 + 246 + delayOf s₀.se)
      (hdue : dueBoundary s₀.cfg.boundaries b s.se.ticksToFinal = t1 + 246 + delayOf s₀.se)
  /-- The next steady send is a whole number of periods after the sync-final and less than one period away. -/
  | locked (due : Nat) (hp : s.se.phase = .locked) (hlow : t1 + 246 + delayOf s₀.se ≤ b)
      (hdue : dueBoundary s₀.cfg.boundaries b s.se.ticksToNextTx = due) (hahead : b < due)
      (hgap : due ≤ b + steadyPeriod s₀.se) (hperiod : (due - (t1 + 246 + delayOf s₀.se)) % steadyPeriod s₀.se = 0)

section
variable {s₀ s t : State} {t1 b : Nat} {pct : Nat → Byte} {dbl : Nat → Bool}

theorem OnTimeline.phase_eq (hs : OnTimeline s₀ t1 b s) : s.se.phase = timelinePhase s₀.se t1 b := by
  rw [timelinePhase]
  cases hs with
  | countingDown hp _ hhigh => rw [hp, if_pos hhigh]
  | awaitingFinal hp hlow hhigh => rw [hp, if_neg hlow.not_gt, if_pos hhigh]
  | locked _ hp hlow => rw [hp, if_neg ((countdown_lt_final t1 _).le.trans hlow).not_gt, if_neg hlow.not_gt]

/-- A half-second boundary and its index in the minor cycle have the same parity, since `M` is even. -/
theorem mod_boundaries_mod_two (cfg : Config) (b : Nat) : b % cfg.boundaries % 2 = b % 2 := by
  refine Nat.mod_mod_of_dvd b ?_
  obtain h | h := boundaries_cases cfg
  · rw [h]
  · rw [h]
    decide

/-- The first call starts the handshake, whose first even boundary is the call's own or the next (R173 to R175). -/
theorem OnTimeline.start (hcalls : CallsNext b s) (hp : s.se.phase = .unsynced)
    (h1 : s.se.hc1.toNat ≤ 99) (h2 : s.se.hc2.toNat ≤ 99)
    (hexec : exec (boundaryCall s.cfg.boundaries b pct dbl) s = .next t) :
    OnTimeline s (b + b % 2) b t ∧ Sent (timelineFrames s (b + b % 2) pct dbl b) s t := by
  obtain ⟨_, hcall⟩ := hcalls.timingCall pct dbl
  obtain ⟨t', hexec', _, _, hodd, heven⟩ := aTimingCallStartsTheHandshake _ _ _ _ _ _ _ hcall hp h1 h2
  obtain rfl := eq_of_exec hexec' hexec
  rw [mod_boundaries_mod_two] at hodd heven
  obtain hb | hb := Nat.mod_two_eq_zero_or_one b
  · obtain ⟨ok, hse, hsends⟩ := heven hb
    have hcount : (239 : Byte).toNat + (b + 2) = 241 + b % 2 + b := by
      rw [hb, show (239 : Byte).toNat = 239 from rfl]
      ring
    rw [hb, Nat.add_zero, timelineFrames_of_countdown le_rfl (Nat.le_add_right ..) (by rw [Nat.sub_self]), Nat.sub_self]
    exact ⟨.countingDown (by rw [hse]) (Nat.le_succ b) (Nat.lt_add_of_pos_right (by decide)) (by rw [hse]; exact hcount),
      hsends.sent⟩
  · obtain ⟨hse, hsends⟩ := hodd hb
    have hlater : b < b + 1 + 238 := Nat.lt_add_right 238 (Nat.lt_succ_self b)
    have hcount : (241 : Byte).toNat + (b + 2) = 241 + b % 2 + (b + 1) := by
      rw [hb, show (241 : Byte).toNat = 241 from rfl]
      ring
    rw [hb, timelineFrames_of_handshake (hlater.trans (countdown_lt_final ..)) (fun ⟨hle, _⟩ => Nat.not_succ_le_self b hle)]
    exact ⟨.countingDown (by rw [hse]) le_rfl hlater (by rw [hse]; exact hcount), hsends.sent⟩

/-- The countdown `c` at an even boundary `b` of the handshake: odd, 241 less the boundaries since `t1`, and 3 at the last of
the 120. -/
theorem countdown_at_even_boundary {c b t1 : Nat} (heven : t1 % 2 = 0) (hb : b % 2 = 0) (hlow : t1 ≤ b) (hhigh : b < t1 + 239)
    (hcount : c + b = 241 + t1) :
    c = 241 - (b - t1) ∧ c % 2 = 1 ∧ (b - t1) % 2 = 0 ∧ (c = 3 → b = t1 + 238)
    ∧ (c ≠ 3 → b < t1 + 238 ∧ (c + 254) % 256 + (b + 2) = 241 + t1) := by
  have hdistance : (b - t1) % 2 = 0 := Nat.sub_mod_eq_zero_of_mod_eq (hb.trans heven.symm)
  obtain ⟨n, rfl⟩ := Nat.exists_eq_add_of_le hlow
  have hsum : c + n = 241 := by omega
  have hlt : n < 239 := Nat.lt_of_add_lt_add_left hhigh
  rw [Nat.add_sub_cancel_left] at hdistance ⊢
  clear hcount hlow hhigh hb heven
  refine ⟨?_, ?_, hdistance, ?_, ?_⟩ <;> omega

/-- At an even boundary the countdown is sent and falls, and the boundary of the value 3 ends it (R175). -/
theorem OnTimeline.call_even_boundary (hframe : TimingFrame s₀ s) (hcalls : CallsNext (b + 1) s) (heven : t1 % 2 = 0)
    (hb : (b + 1) % 2 = 0) (hp : s.se.phase = .countingDown) (hlow : t1 ≤ b + 1) (hhigh : b < t1 + 238)
    (hcount : s.se.countdown.toNat + (b + 2) = 241 + b % 2 + t1)
    (hexec : exec (boundaryCall s.cfg.boundaries (b + 1) pct dbl) s = .next t) :
    OnTimeline s₀ t1 (b + 1) t ∧ Sent (timelineFrames s₀ t1 pct dbl (b + 1)) s t := by
  obtain ⟨hcfg, _, hhc1, hhc2, _⟩ := hframe
  have hdelay : delayOf s.se = delayOf s₀.se := congrArg (fun c : Byte => c.toNat % 8) hhc2
  have hfinal : t1 + 238 + (delayOf s₀.se + 8) = t1 + 246 + delayOf s₀.se := by omega
  have hrange : b + 1 < t1 + 239 := Nat.succ_lt_succ hhigh
  have hsum : s.se.countdown.toNat + (b + 1) = 241 + t1 := by omega
  obtain ⟨hvalue, hodd, hparity, hend, hgo⟩ := countdown_at_even_boundary heven hb hlow hrange hsum
  obtain ⟨_, hcall⟩ := hcalls.timingCall pct dbl
  obtain ⟨t', hexec', _, _, _, hstep⟩ := theCountdownStepSendsAndCountsDown _ _ _ _ _ _ _ hcall hp
  obtain rfl := eq_of_exec hexec' hexec
  rw [mod_boundaries_mod_two] at hstep
  obtain ⟨hsend, _, hnext, hthree, hother, _⟩ := hstep hb
  obtain ⟨ok, hsends, _⟩ := hsend hodd
  have hframes : Sent (timelineFrames s₀ t1 pct dbl (b + 1)) s t := by
    rw [timelineFrames_of_countdown hlow (Nat.le_of_lt_succ hrange) hparity, ← hvalue, BitVec.ofNat_toNat, BitVec.setWidth_eq,
      ← hhc1, ← hhc2, ← hcfg]
    exact hsends.sent
  refine ⟨?_, hframes⟩
  by_cases hlast : s.se.countdown = 3
  · obtain ⟨hawaiting, hdue⟩ := hthree hlast
    have hlastBoundary := hend (congrArg BitVec.toNat hlast)
    have hboundary := dueBoundary_of_toNat (hdue.trans (Nat.add_assoc ..))
    rw [hcfg, hdelay, hlastBoundary] at hboundary
    rw [hlastBoundary]
    exact .awaitingFinal hawaiting le_rfl (countdown_lt_final ..) (hboundary.trans hfinal)
  · obtain ⟨hcounting, _⟩ := hother hlast
    obtain ⟨hhigh', hcount'⟩ := hgo (fun h => hlast (BitVec.eq_of_toNat_eq h))
    exact .countingDown hcounting (Nat.le_succ_of_le hlow) hhigh' (by rw [hnext, hb]; exact hcount')

/-- In the countdown an odd boundary lets it wait (R175). -/
theorem OnTimeline.call_countingDown (hframe : TimingFrame s₀ s) (hcalls : CallsNext (b + 1) s) (heven : t1 % 2 = 0)
    (hp : s.se.phase = .countingDown) (hlow : t1 ≤ b + 1) (hhigh : b < t1 + 238)
    (hcount : s.se.countdown.toNat + (b + 2) = 241 + b % 2 + t1)
    (hexec : exec (boundaryCall s.cfg.boundaries (b + 1) pct dbl) s = .next t) :
    OnTimeline s₀ t1 (b + 1) t ∧ Sent (timelineFrames s₀ t1 pct dbl (b + 1)) s t := by
  obtain hb | hb := Nat.mod_two_eq_zero_or_one (b + 1)
  · exact OnTimeline.call_even_boundary hframe hcalls heven hb hp hlow hhigh hcount hexec
  · have hhigh' : b + 1 < t1 + 238 := by omega
    have hwait : s.se.countdown.toNat + (b + 1 + 2) = 241 + (b + 1) % 2 + t1 := by omega
    have hnone : ¬ (t1 ≤ b + 1 ∧ b + 1 ≤ t1 + 238 ∧ (b + 1 - t1) % 2 = 0) := by omega
    obtain ⟨_, hcall⟩ := hcalls.timingCall pct dbl
    obtain ⟨t', hexec', _, _, hodd, _⟩ := theCountdownStepSendsAndCountsDown _ _ _ _ _ _ _ hcall hp
    obtain rfl := eq_of_exec hexec' hexec
    rw [mod_boundaries_mod_two] at hodd
    obtain ⟨hse, hsends⟩ := hodd hb
    rw [timelineFrames_of_handshake (hhigh'.trans (countdown_lt_final ..)) hnone]
    exact ⟨.countingDown (by rw [hse]; exact hp) (Nat.le_succ_of_le hlow) hhigh' (by rw [hse]; exact hwait), hsends.sent⟩

/-- The call of the next boundary keeps the engine on the timeline and sends what the timeline places there. -/
theorem OnTimeline.call (hs : OnTimeline s₀ t1 b s) (hframe : TimingFrame s₀ s) (hcalls : CallsNext (b + 1) s)
    (heven : t1 % 2 = 0) (hexec : exec (boundaryCall s.cfg.boundaries (b + 1) pct dbl) s = .next t) :
    OnTimeline s₀ t1 (b + 1) t ∧ Sent (timelineFrames s₀ t1 pct dbl (b + 1)) s t := by
  obtain ⟨hcfg, _, hhc1, hhc2, _⟩ := id hframe
  have hP : steadyPeriod s.se = steadyPeriod s₀.se := congrArg (fun c : Byte => c.toNat % 8 + 230) hhc2
  have hpos : 0 < steadyPeriod s₀.se := Nat.succ_pos _
  cases hs with
  | countingDown hp hlow hhigh hcount =>
    exact OnTimeline.call_countingDown hframe hcalls heven hp hlow hhigh hcount hexec
  | awaitingFinal hp hlow hhigh hdue =>
    rw [← hcfg] at hdue
    obtain hearly | hnow := Nat.lt_or_eq_of_le (Nat.succ_le_of_lt hhigh)
    · obtain ⟨hq, hdue', hsends⟩ := hcalls.awaiting_early hp (hdue.symm ▸ hearly) hexec
      rw [timelineFrames_of_handshake hearly (not_countdown_boundary (Nat.lt_succ_of_le hlow))]
      exact ⟨.awaitingFinal hq (Nat.le_succ_of_le hlow) hearly (by rw [← hcfg, hdue', hdue]), hsends.sent⟩
    · obtain ⟨hq, hdue', hsent⟩ := hcalls.awaiting_due hp (hdue.trans hnow.symm) hexec
      rw [hcfg, hP] at hdue'
      rw [timelineFrames_of_final hnow, ← hhc1, ← hhc2, ← hcfg]
      refine ⟨.locked _ hq hnow.ge hdue' (Nat.lt_add_of_pos_right hpos) le_rfl ?_, hsent⟩
      rw [← hnow, Nat.add_sub_cancel_left, Nat.mod_self]
  | locked due hp hlow hdue hahead hgap hperiod =>
    rw [← hcfg] at hdue
    have hlow' := Nat.le_succ_of_le hlow
    obtain hearly | hnow := Nat.lt_or_eq_of_le (Nat.succ_le_of_lt hahead)
    · obtain ⟨hq, hdue', hsends⟩ := hcalls.locked_early hp (hdue.symm ▸ hearly) hexec
      have hgap' : due < b + 1 + steadyPeriod s₀.se := Nat.lt_of_le_of_lt hgap (Nat.add_lt_add_right (Nat.lt_succ_self b) _)
      rw [timelineFrames_of_between (Nat.lt_succ_of_le hlow) (mod_ne_zero_of_between hperiod hlow' hearly hgap')]
      exact ⟨.locked due hq hlow' (by rw [← hcfg, hdue', hdue]) hearly hgap'.le hperiod, hsends.sent⟩
    · obtain ⟨hq, hdue', hsent⟩ := hcalls.locked_due hp (hdue.trans hnow.symm) hexec
      rw [hcfg, hP] at hdue'
      rw [← hnow] at hperiod
      rw [timelineFrames_of_steady (Nat.lt_succ_of_le hlow) hperiod, ← hhc1, ← hhc2, ← hcfg]
      refine ⟨.locked _ hq hlow' hdue' (Nat.lt_add_of_pos_right hpos) le_rfl ?_, hsent⟩
      rw [Nat.sub_add_comm hlow', Nat.add_mod_right]
      exact hperiod

/-- The first even boundary at or after `b` (R186). -/
theorem firstEven_mod_two (b : Nat) : (b + b % 2) % 2 = 0 := by
  omega

/-! ### A caller that makes every call -/

theorem boundaryCalls_concat (m b n : Nat) (pct : Nat → Byte) (dbl : Nat → Bool) :
    boundaryCalls m b (n + 1) pct dbl = boundaryCalls m b n pct dbl ++ [boundaryCall m (b + n) pct dbl] := by
  simp only [boundaryCalls, List.range_succ, List.map_append, List.map_cons, List.map_nil]

theorem execAll_cons {i : Instr} (hexec : exec i s = .next t) (rest : List Instr) :
    execAll (i :: rest) s = execAll rest t := by
  rw [execAll, hexec]

theorem execAll_concat {u : State} {calls : List Instr} {i : Instr} (hcalls : execAll calls s = .next t)
    (hexec : exec i t = .next u) : execAll (calls ++ [i]) s = .next u := by
  rw [execAll_append _ _ _ hcalls, execAll_cons hexec, execAll]

/-- The frames of the timeline at `n` boundaries from boundary `b` on. -/
def timelineUpTo (s₀ : State) (t1 : Nat) (pct : Nat → Byte) (dbl : Nat → Bool) (b n : Nat) : List (List Byte × Copies) :=
  (List.range n).flatMap (fun k => timelineFrames s₀ t1 pct dbl (b + k))

theorem timelineUpTo_cons (n : Nat) : timelineUpTo s₀ t1 pct dbl b (n + 1) =
    timelineFrames s₀ t1 pct dbl b ++ timelineUpTo s₀ t1 pct dbl (b + 1) n := by
  simp only [timelineUpTo, List.range_succ_eq_map, List.flatMap_cons, List.flatMap_map, Nat.add_zero,
    Nat.succ_eq_add_one, Nat.add_assoc, Nat.add_comm 1]

theorem timelineUpTo_concat (n : Nat) : timelineUpTo s₀ t1 pct dbl b (n + 1) =
    timelineUpTo s₀ t1 pct dbl b n ++ timelineFrames s₀ t1 pct dbl (b + n) := by
  simp only [timelineUpTo, List.range_succ, List.flatMap_append, List.flatMap_singleton]

/-- From a start at boundary `b` the engine is on the timeline after every later boundary. -/
theorem onTimeline_of_everyCall (hcalls : CallsNext b s) (hp : s.se.phase = .unsynced)
    (h1 : s.se.hc1.toNat ≤ 99) (h2 : s.se.hc2.toNat ≤ 99) (n : Nat) :
    ∃ t : State, execAll (boundaryCalls s.cfg.boundaries b (n + 1) pct dbl) s = .next t
      ∧ TimingFrame s t ∧ t.se.h.toNat = (b + n) % s.cfg.boundaries ∧ OnTimeline s (b + b % 2) (b + n) t
      ∧ t.io.events.map TxEvent.sent =
          s.io.events.map TxEvent.sent ++ timelineUpTo s (b + b % 2) pct dbl b (n + 1) := by
  induction n with
  | zero =>
    obtain ⟨t, hexec, hframe, hclock⟩ := hcalls.exec pct dbl
    obtain ⟨hon, hsent, _⟩ := OnTimeline.start hcalls hp h1 h2 hexec
    refine ⟨t, execAll_cons hexec [], hframe, hclock, hon, ?_⟩
    rw [hsent, timelineUpTo_concat]
    rfl
  | succ n ih =>
    obtain ⟨t, hrun, hframe, hclock, hon, hevents⟩ := ih
    have hcfg := hframe.cfg
    have hnext := callsNext_of_clock (hclock.trans (by rw [hcfg]))
    obtain ⟨u, hexec, hframe', hclock'⟩ := hnext.exec pct dbl
    obtain ⟨hon', hsent, _⟩ := hon.call hframe hnext (firstEven_mod_two b) hexec
    rw [hcfg] at hexec hclock'
    refine ⟨u, ?_, hframe.trans hframe', hclock', hon', ?_⟩
    · rw [boundaryCalls_concat]
      exact execAll_concat hrun hexec
    · rw [hsent, hevents, timelineUpTo_concat (n + 1), List.append_assoc]
      rfl

/-- How many countdown frames the first `n` boundaries of a handshake from boundary 0 have: one at each even boundary, 120 at
most. -/
def countdownFrames (n : Nat) : Nat := min ((n + 1) / 2) 120

theorem countdownFrames_succ_of_even {n : Nat} (hhigh : n ≤ 238) (heven : n % 2 = 0) :
    countdownFrames (n + 1) = countdownFrames n + 1 ∧ n = 2 * countdownFrames n := by
  obtain ⟨k, rfl⟩ := Nat.dvd_of_mod_eq_zero heven
  have hk : k ≤ 119 := Nat.le_of_mul_le_mul_left hhigh (by decide)
  have hnow : (2 * k + 1) / 2 = k := by omega
  have hnext : (2 * k + 1 + 1) / 2 = k + 1 := by omega
  rw [countdownFrames, countdownFrames, hnow, hnext, min_eq_left (hk.trans (by decide)), min_eq_left (Nat.succ_le_succ hk)]
  exact ⟨rfl, rfl⟩

theorem countdownFrames_of_le {n : Nat} (h : 239 ≤ n) : countdownFrames n = 120 :=
  min_eq_right (Nat.le_div_iff_mul_le (by decide) |>.mpr (Nat.succ_le_succ h))

theorem countdownFrames_succ_of_not {n : Nat} (h : ¬ (n ≤ 238 ∧ n % 2 = 0)) :
    countdownFrames (n + 1) = countdownFrames n := by
  obtain hhigh | hodd := not_and_or.mp h
  · rw [countdownFrames_of_le (Nat.lt_of_not_le hhigh), countdownFrames_of_le (Nat.le_succ_of_le (Nat.lt_of_not_le hhigh))]
  · rw [countdownFrames, countdownFrames, show (n + 1 + 1) / 2 = (n + 1) / 2 by omega]

/-- The frames of the first `n` boundaries of a handshake that starts at boundary 0 (R186 item 1). -/
theorem timelineUpTo_of_handshake (s : State) {n : Nat} (hn : n ≤ 246 + delayOf s.se) :
    timelineUpTo s 0 pct dbl 0 n =
      (List.range (countdownFrames n)).map (fun k =>
        (frameBytes s.se.hc1 s.se.hc2 s.cfg.opcSyncCountdown (BitVec.ofNat 8 (241 - 2 * k)), .two)) := by
  induction n with
  | zero => rfl
  | succ n ih =>
    rw [timelineUpTo_concat, ih (Nat.le_of_succ_le hn), Nat.zero_add]
    by_cases hcount : n ≤ 238 ∧ n % 2 = 0
    · obtain ⟨hhigh, heven⟩ := hcount
      obtain ⟨hsucc, hdouble⟩ := countdownFrames_succ_of_even hhigh heven
      rw [timelineFrames_of_countdown (Nat.zero_le n) (by rwa [Nat.zero_add]) heven, Nat.sub_zero, hsucc, List.range_succ,
        List.map_append, List.map_singleton, ← hdouble]
    · have hlt : n < 0 + 246 + delayOf s.se := by rwa [Nat.zero_add]
      rw [timelineFrames_of_handshake hlt (by rwa [Nat.zero_add, Nat.sub_zero, and_iff_right (Nat.zero_le n)]),
        List.append_nil, countdownFrames_succ_of_not hcount]

end

/-- Settles O30: the timeline from boundary 0. -/
theorem theHandshakeLocksOnItsTimeline : Obligations.TheHandshakeLocksOnItsTimeline := by
  intro s pct dbl hp h1 h2
  have hrun := fun n => onTimeline_of_everyCall (b := 0) (pct := pct) (dbl := dbl) (.inl (Nat.zero_mod _)) hp h1 h2 n
  simp only [Nat.zero_add, Nat.zero_mod] at hrun
  refine ⟨fun n hn => ?_, ?_⟩
  · cases n with
    | zero => exact ⟨s, rfl, by rw [hp]; decide, nofun, nofun, (List.append_nil _).symm⟩
    | succ n =>
      obtain ⟨t, hexec, _, _, hon, hevents⟩ := hrun n
      have hphase := hon.phase_eq
      rw [timelinePhase, Nat.zero_add, Nat.zero_add] at hphase
      rw [timelineUpTo_of_handshake s hn] at hevents
      have hlt : n < 246 + delayOf s.se := hn
      refine ⟨t, hexec, ?_, fun _ hle => by rw [hphase, if_pos (Nat.lt_of_succ_le hle)],
        fun hge => by rw [hphase, if_neg (Nat.not_lt.mpr (Nat.le_of_succ_le_succ hge)), if_pos hlt], hevents⟩
      rw [hphase, if_pos hlt]
      split <;> decide
  · obtain ⟨t, hexec, _, hclock, hon, hevents⟩ := hrun (246 + delayOf s.se)
    have hfinal : 246 + delayOf s.se = 0 + 246 + delayOf s.se := by rw [Nat.zero_add]
    rw [timelineUpTo_concat, timelineUpTo_of_handshake s le_rfl, Nat.zero_add, timelineFrames_of_final hfinal,
      countdownFrames_of_le (Nat.le_add_right_of_le (by decide)), ← List.append_assoc] at hevents
    rw [show 247 + delayOf s.se = 246 + delayOf s.se + 1 from Nat.add_right_comm 246 1 _]
    cases hon with
    | countingDown _ _ hhigh => exact absurd (hhigh.trans (hfinal ▸ countdown_lt_final 0 _)) (lt_irrefl _)
    | awaitingFinal _ _ hhigh => exact absurd hhigh hfinal.not_lt
    | locked due hq _ hdue hahead hgap hperiod =>
      refine ⟨t, hexec, hq, hclock, ?_, hevents⟩
      rw [Nat.zero_add] at hperiod
      have hle := Nat.le_of_dvd (Nat.sub_pos_of_lt hahead) (Nat.dvd_of_mod_eq_zero hperiod)
      rw [toNat_of_dueBoundary (hdue.trans (eq_add_of_one_period hahead hgap hle)), hclock]

/-! ### The steady sends -/

section
variable {s : State} {b : Nat} (pct : Nat → Byte) (dbl : Nat → Bool)

/-- Up to the boundary before the due one, every call waits. -/
theorem locked_until_due (hp : s.se.phase = .locked) (hclock : s.se.h.toNat = b % s.cfg.boundaries) (n : Nat)
    (hn : b + n < dueBoundary s.cfg.boundaries b s.se.ticksToNextTx) :
    ∃ t : State, execAll (boundaryCalls s.cfg.boundaries (b + 1) n pct dbl) s = .next t
      ∧ TimingFrame s t ∧ t.se.h.toNat = (b + n) % s.cfg.boundaries ∧ t.se.phase = .locked
      ∧ dueBoundary s.cfg.boundaries (b + n) t.se.ticksToNextTx =
          dueBoundary s.cfg.boundaries b s.se.ticksToNextTx
      ∧ t.io.events = s.io.events := by
  induction n with
  | zero => exact ⟨s, rfl, ⟨rfl, rfl, rfl, rfl, rfl⟩, hclock, hp, rfl, rfl⟩
  | succ n ih =>
    obtain ⟨t, hrun, hframe, hclock', hq, hdue, hevents⟩ := ih (Nat.lt_of_succ_lt hn)
    have hcfg := hframe.cfg
    have hnext := callsNext_of_clock (hclock'.trans (by rw [hcfg]))
    obtain ⟨u, hexec, hframe', hclock''⟩ := hnext.exec pct dbl
    obtain ⟨hq', hdue', hsends⟩ := hnext.locked_early hq (by rw [hcfg, hdue]; exact hn) hexec
    rw [hcfg] at hexec hclock'' hdue'
    refine ⟨u, ?_, hframe.trans hframe', hclock'', hq', hdue'.trans hdue, by rw [hsends, hevents]⟩
    rw [boundaryCalls_concat, Nat.add_right_comm b 1 n]
    exact execAll_concat hrun hexec

end

/-- Settles O31. -/
theorem steadySendsAreOnePeriodApart : Obligations.SteadySendsAreOnePeriodApart := by
  intro s b pct dbl hp hb hindex
  have hdue : dueBoundary s.cfg.boundaries b s.se.ticksToNextTx = b + steadyPeriod s.se :=
    dueBoundary_of_toNat (by rw [hindex, hb])
  obtain ⟨n, hn⟩ : ∃ n, steadyPeriod s.se = n + 1 := ⟨_, rfl⟩
  obtain ⟨t, hrun, hframe, hclock, hq, hdue', hevents⟩ := locked_until_due pct dbl hp hb.symm n
    (by rw [hdue, hn]; exact Nat.lt_succ_self (b + n))
  obtain ⟨hcfg, _, hhc1, hhc2, _⟩ := id hframe
  have hP : steadyPeriod t.se = steadyPeriod s.se := congrArg (fun c : Byte => c.toNat % 8 + 230) hhc2
  have hnext := callsNext_of_clock (hclock.trans (by rw [hcfg]))
  obtain ⟨u, hexec, _, hclock'⟩ := hnext.exec pct dbl
  obtain ⟨hq', hdue'', hsent, _⟩ := hnext.locked_due hq (by rw [hcfg, hdue', hdue, hn, Nat.add_assoc]) hexec
  rw [hcfg] at hexec hclock' hdue''
  rw [hevents, hhc1, hhc2, hcfg, Nat.add_assoc, ← hn] at hsent
  rw [Nat.add_assoc, ← hn] at hclock' hdue''
  rw [Nat.add_right_comm b n 1] at hexec
  refine ⟨t, u, ?_, hevents, ?_, hq', hclock', ?_, callPercent pct (b + steadyPeriod s.se), ?_, hsent⟩
  · rw [hn, Nat.add_sub_cancel]
    exact hrun
  · rw [hn, boundaryCalls_concat]
    exact execAll_concat hrun hexec
  · rw [toNat_of_dueBoundary hdue'', hP, hclock']
  · exact callPercent_toNat pct _

end Sys2Proof.Machine
end

section
/-!
Proofs about a caller that heeds needMore (R182, R298, R300): leaving out the calls that it does not ask for, the caller sees the
timeline of R186.
-/
namespace Sys2Proof.Machine

/-! ### A caller that heeds needMore -/

/-- Nothing is due in the rest of the minor cycle of boundary `b` (R182). -/
def NothingDue (b : Nat) (s : State) : Prop :=
  (s.se.phase = .countingDown → s.cfg.boundaries ≤ 2 * (b % s.cfg.boundaries / 2) + 2)
  ∧ (s.se.phase = .awaitingFinal → s.cfg.boundaries ≤ s.se.ticksToFinal.toNat)
  ∧ (s.se.phase = .locked → s.cfg.boundaries ≤ s.se.ticksToNextTx.toNat)

/-- Where the caller stands after boundary `b`: it made that call and has its needMore, or it gave up in this minor cycle, in
which nothing is due any more. -/
def CallerAt (gaveUp : Bool) (b : Nat) (s : State) : Prop :=
  (gaveUp = false ∧ s.se.h.toNat = b % s.cfg.boundaries ∧ askedForMore s = needMore s) ∨ (gaveUp = true ∧ NothingDue b s)

section
variable {s₀ s : State} {t1 b : Nat} {pct : Nat → Byte} {dbl : Nat → Bool}

/-- On the timeline a due index is ahead, so needMore 0 says that it lies beyond the minor cycle. -/
theorem OnTimeline.nothingDue (hs : OnTimeline s₀ t1 b s) (hcfg : s.cfg = s₀.cfg)
    (hclock : s.se.h.toNat = b % s.cfg.boundaries) (hmore : needMore s = false) : NothingDue b s := by
  have hphase {p q : Phase} (hp : s.se.phase = p) (hne : p ≠ q) {P : Prop} : s.se.phase = q → P :=
    fun hq => absurd (hp.symm.trans hq) hne
  cases hs with
  | countingDown hp =>
    simp only [needMore, hp, hclock, decide_eq_false_iff_not, not_lt] at hmore
    exact ⟨fun _ => hmore, hphase hp (by decide), hphase hp (by decide)⟩
  | awaitingFinal hp hlow hhigh hdue =>
    simp only [needMore, hp, hclock, decide_eq_false_iff_not, not_and, not_lt] at hmore
    rw [← hdue, ← hcfg] at hhigh
    exact ⟨hphase hp (by decide), fun _ => hmore (lt_dueBoundary_iff.mp hhigh), hphase hp (by decide)⟩
  | locked due hp hlow hdue hahead =>
    simp only [needMore, hp, hclock, decide_eq_false_iff_not, not_and, not_lt] at hmore
    rw [← hdue, ← hcfg] at hahead
    exact ⟨hphase hp (by decide), hphase hp (by decide), fun _ => hmore (lt_dueBoundary_iff.mp hahead)⟩

/-- With no even boundary left in the minor cycle, a boundary inside it is odd. -/
theorem odd_inside_cycle (cfg : Config) {b : Nat} (hinside : (b + 1) % cfg.boundaries = b % cfg.boundaries + 1)
    (hlt : b % cfg.boundaries + 1 < cfg.boundaries) (hcycle : cfg.boundaries ≤ 2 * (b % cfg.boundaries / 2) + 2) :
    (b + 1) % 2 = 1 := by
  rw [← mod_boundaries_mod_two cfg (b + 1), hinside]
  clear hinside
  generalize b % cfg.boundaries = i at hlt hcycle
  obtain hm | hm := boundaries_cases cfg
  · rw [hm] at hlt hcycle
    omega
  · rw [hm] at hlt hcycle
    omega

theorem succ_mod_of_inside (cfg : Config) {b : Nat} (hinside : (b + 1) % cfg.boundaries ≠ 0) :
    (b + 1) % cfg.boundaries = b % cfg.boundaries + 1 := by
  obtain ⟨hstart, _⟩ | ⟨hnext, _⟩ := loweredAt_succ (b := b) (boundaries_cases cfg)
  · exact absurd hstart hinside
  · exact hnext

/-- A boundary without a call, at which nothing is due, leaves the engine on the timeline. -/
theorem OnTimeline.skip (hs : OnTimeline s₀ t1 b s) (hcfg : s.cfg = s₀.cfg) (heven : t1 % 2 = 0)
    (hnothing : NothingDue b s) (hinside : (b + 1) % s.cfg.boundaries ≠ 0) :
    OnTimeline s₀ t1 (b + 1) s ∧ NothingDue (b + 1) s ∧ timelineFrames s₀ t1 pct dbl (b + 1) = [] := by
  have hsucc := succ_mod_of_inside s.cfg hinside
  have hlt : b % s.cfg.boundaries + 1 < s.cfg.boundaries := hsucc ▸ Nat.mod_lt _ (by
    obtain hm | hm := boundaries_cases s.cfg <;> rw [hm] <;> decide)
  obtain ⟨hcountdown, hfinal, hsteady⟩ := hnothing
  have hnothing' : NothingDue (b + 1) s := by
    refine ⟨fun hp => (hcountdown hp).trans ?_, hfinal, hsteady⟩
    rw [hsucc]
    exact Nat.add_le_add_right (Nat.mul_le_mul_left 2 (Nat.div_le_div_right (Nat.le_succ _))) 2
  cases hs with
  | countingDown hp hlow hhigh hcount =>
    have hodd := odd_inside_cycle s.cfg hsucc hlt (hcountdown hp)
    clear hcountdown hfinal hsteady hinside hsucc hlt
    exact ⟨.countingDown hp (by omega) (by omega) (by omega), hnothing',
      timelineFrames_of_handshake (by omega) (by omega)⟩
  | awaitingFinal hp hlow hhigh hdue =>
    have hlater := lt_dueBoundary hlt (hfinal hp)
    rw [← hcfg] at hdue
    rw [hdue] at hlater
    refine ⟨.awaitingFinal hp (Nat.le_succ_of_le hlow) hlater ?_, hnothing',
      timelineFrames_of_handshake hlater (fun h => ?_)⟩
    · rw [← hcfg, dueBoundary_of_skip hsucc, hdue]
    · exact absurd h.2.1 (Nat.not_le_of_lt (Nat.lt_succ_of_le hlow))
  | locked due hp hlow hdue hahead hgap hperiod =>
    have hlater := lt_dueBoundary hlt (hsteady hp)
    rw [← hcfg] at hdue
    rw [hdue] at hlater
    have hgap' := Nat.lt_succ_of_le hgap
    rw [Nat.succ_eq_add_one, Nat.add_right_comm] at hgap'
    refine ⟨.locked due hp (Nat.le_succ_of_le hlow) ?_ hlater hgap'.le hperiod, hnothing',
      timelineFrames_of_between (Nat.lt_succ_of_le hlow)
        (mod_ne_zero_of_between hperiod (Nat.le_succ_of_le hlow) hlater hgap')⟩
    rw [← hcfg, dueBoundary_of_skip hsucc, hdue]

theorem CallerAt.callsNext {gaveUp : Bool} (hcaller : CallerAt gaveUp b s)
    (hcall : (b + 1) % s.cfg.boundaries = 0 ∨ gaveUp = false) : CallsNext (b + 1) s := by
  obtain hstart | rfl := hcall
  · exact .inl hstart
  · obtain ⟨_, hclock, _⟩ | ⟨htrue, _⟩ := hcaller
    · exact callsNext_of_clock hclock
    · cases htrue

/-- From a state on the timeline, whichever unneeded calls are left out, the frames and the phase stay those of the
timeline. -/
theorem OnTimeline.heedingCalls (stops : Nat → Bool) (heven : t1 % 2 = 0) (n : Nat) (b : Nat) (gaveUp : Bool) (s : State)
    (hs : OnTimeline s₀ t1 b s) (hframe : TimingFrame s₀ s) (hcaller : CallerAt gaveUp b s) :
    ∃ t : State, Machine.heedingCalls pct dbl stops (b + 1) n gaveUp s = .next t
      ∧ t.se.phase = timelinePhase s₀.se t1 (b + n)
      ∧ t.io.events.map TxEvent.sent =
          s.io.events.map TxEvent.sent ++ timelineUpTo s₀ t1 pct dbl (b + 1) n := by
  induction n generalizing b gaveUp s with
  | zero => exact ⟨s, rfl, hs.phase_eq, (List.append_nil _).symm⟩
  | succ n ih =>
    rw [timelineUpTo_cons, show b + (n + 1) = b + 1 + n by omega]
    by_cases hskip : (b + 1) % s.cfg.boundaries ≠ 0 ∧ (gaveUp ∨ (askedForMore s = false ∧ stops (b + 1)))
    · obtain ⟨hinside, hwhy⟩ := id hskip
      have hnothing : NothingDue b s := by
        obtain ⟨rfl, hclock, hasked⟩ | ⟨_, hnothing⟩ := hcaller
        · obtain h | ⟨hno, _⟩ := hwhy
          · cases h
          · exact hs.nothingDue hframe.cfg hclock (hasked ▸ hno)
        · exact hnothing
      obtain ⟨hs', hnothing', hframes⟩ := hs.skip (pct := pct) (dbl := dbl) hframe.cfg heven hnothing hinside
      rw [heedingCalls_silent _ _ _ _ _ _ _ hskip, hframes, List.nil_append]
      exact ih (b + 1) true s hs' hframe (.inr ⟨rfl, hnothing'⟩)
    · have hnext : CallsNext (b + 1) s := hcaller.callsNext (by
        by_contra hnot
        obtain ⟨hinside, hgave⟩ := not_or.mp hnot
        exact hskip ⟨hinside, .inl (by simpa using hgave)⟩)
      obtain ⟨t, hexec, hframe', hclock⟩ := hnext.exec pct dbl
      obtain ⟨hs', hsent, hasked⟩ := hs.call hframe hnext heven hexec
      rw [heedingCalls_call _ _ _ _ _ _ _ hskip hexec]
      obtain ⟨u, hrun, hphase, hevents⟩ := ih (b + 1) false t hs' (hframe.trans hframe')
        (.inl ⟨rfl, by rw [hframe'.cfg, hclock], hasked⟩)
      exact ⟨u, hrun, hphase, by rw [hevents, hsent, List.append_assoc]⟩

end

/-- Settles O56. -/
theorem aCallerThatHeedsNeedMoreSeesTheTimeline : Obligations.ACallerThatHeedsNeedMoreSeesTheTimeline := by
  intro s b n pct dbl stops hp h1 h2 hcalls
  obtain ⟨u, hexec, hframe, hclock⟩ := CallsNext.exec (s := s) hcalls pct dbl
  obtain ⟨hon, hsent, hasked⟩ := OnTimeline.start hcalls hp h1 h2 hexec
  obtain ⟨t, hrun, hphase, hevents⟩ := hon.heedingCalls (pct := pct) (dbl := dbl) stops (firstEven_mod_two b) n b false u
    hframe (.inl ⟨rfl, by rw [hframe.cfg, hclock], hasked⟩)
  refine ⟨u, t, hexec, hrun, hphase, ?_⟩
  rw [hevents, hsent, List.append_assoc, ← timelineUpTo_cons]
  rfl

end Sys2Proof.Machine
end

section
/-!
Proofs about needMore (R182): it says that a later boundary of the minor cycle acts.
-/
namespace Sys2Proof.Machine

/-! ### The state after a timing call -/

/-- What holds of the engine after a timing call: its invariant, and that it is Unsynced with an invalid pair only (R174). -/
def Polled (s : State) : Prop :=
  s.se.Inv s.cfg ∧ (s.se.phase = .unsynced → ¬ (s.se.hc1.toNat ≤ 99 ∧ s.se.hc2.toNat ≤ 99))

section
variable {s t u : State} {i : Instr} {pct : Byte} {dbl : Bool} {h lowered passed : Nat}

theorem act_of_valid_pair_phase (pct : Byte) (dbl : Bool) (hp : s.se.phase = .unsynced)
    (hpair : s.se.hc1.toNat ≤ 99 ∧ s.se.hc2.toNat ≤ 99) : (act pct dbl s).se.phase ≠ .unsynced := by
  rw [act_of_valid_pair pct dbl hp hpair]
  obtain hsame | ⟨_, hnext⟩ := countdownStep_phase { s with se.phase := .countingDown, se.countdown := countdownStart }
  · rw [hsame]
    exact Phase.noConfusion
  · rw [hnext]
    exact Phase.noConfusion

theorem act_phase_eq_unsynced (hq : (act pct dbl s).se.phase = .unsynced) : s.se.phase = .unsynced := by
  obtain hsame | ⟨_, hnext, _⟩ | ⟨_, hnext, _⟩ | ⟨_, hnext⟩ := act_phase pct dbl s
  · exact hsame ▸ hq
  all_goals exact absurd (hnext.symm.trans hq) (by decide)

theorem TimingCall.polled (hcall : TimingCall s i pct dbl h lowered passed) (hs : s.se.Inv s.cfg) :
    Polled (actAndRespond pct dbl (atBoundary h lowered s)) := by
  obtain ⟨hcfg, _, hhc1, hhc2, _⟩ := hcall.frame
  refine ⟨by rw [hcfg]; exact hcall.keeps_inv hs, fun hq hpair => ?_⟩
  rw [hhc1, hhc2] at hpair
  exact act_of_valid_pair_phase (s := atBoundary h lowered s) _ _ (act_phase_eq_unsynced hq) hpair hq

theorem TimingCall.exec_h (hcall : TimingCall s i pct dbl h lowered passed) :
    (actAndRespond pct dbl (atBoundary h lowered s)).se.h.toNat = h := by
  rw [actAndRespond_se, act_h]
  exact hcall.boundary_toNat

theorem TimingCall.responses (hcall : TimingCall s i pct dbl h lowered passed) :
    (actAndRespond pct dbl (atBoundary h lowered s)).io.responses =
      s.io.responses ++ [[0x00, boolByte (needMore (actAndRespond pct dbl (atBoundary h lowered s)))]] := by
  have hact : (act (preparePct pct) dbl (atBoundary h lowered s)).io.responses = s.io.responses := by
    obtain hio | ⟨_, hio, _⟩ := hcall.emits
    · rw [hio]
    · rw [hio]
      rfl
  rw [actAndRespond, respondOk_io_responses, hact]
  rfl

/-! ### needMore, one boundary at a time -/

/-- A call that emits an event. -/
def Emits (s t : State) : Prop := t.io.events.length = s.io.events.length + 1

theorem SendsNothing.not_emits (hsends : SendsNothing s t) : ¬ Emits s t := by
  rw [Emits, hsends]
  exact Nat.ne_add_one _

theorem SendsOne.emits {frame : List Byte} {copies : Copies} {ok : Bool} (hsends : SendsOne s t frame copies ok) :
    Emits s t := by
  obtain ⟨_, _, _, _, hio⟩ := hsends
  rw [Emits, hio]
  exact List.length_append

theorem needMore_of_last (hs : s.se.Inv s.cfg) (hlast : s.cfg.boundaries ≤ s.se.h.toNat + 1) : needMore s = false := by
  obtain ⟨hh, _⟩ := hs
  have hm := boundaries_cases s.cfg
  cases hp : s.se.phase <;> simp only [needMore, hp, decide_eq_false_iff_not]
  all_goals omega

/-- In the countdown the calls at even boundaries act, and the next one after `h` is `h + 1` or `h + 2`. -/
theorem next_even_boundary {h : Nat} (cfg : Config) (hlt : h + 1 < cfg.boundaries) :
    ((h + 1) % 2 = 0 → 2 * (h / 2) + 2 < cfg.boundaries)
    ∧ ((h + 1) % 2 = 1 → (2 * (h / 2) + 2 < cfg.boundaries ↔ 2 * ((h + 1) / 2) + 2 < cfg.boundaries)) := by
  omega

/-- A due index ahead that is not the next boundary is within the cycle after it iff it is so now. -/
theorem due_inside_iff {h due m : Nat} (hahead : h < due) (hwait : due ≠ h + 1) :
    h < due ∧ due < m ↔ h + 1 < due ∧ due < m := by
  omega

theorem needMore_eq_of_countingDown (hp : s.se.phase = .countingDown) :
    needMore s = true ↔ 2 * (s.se.h.toNat / 2) + 2 < s.cfg.boundaries := by
  rw [needMore, hp, decide_eq_true_iff]

theorem needMore_eq_of_awaitingFinal (hp : s.se.phase = .awaitingFinal) :
    needMore s = true ↔ s.se.h.toNat < s.se.ticksToFinal.toNat ∧ s.se.ticksToFinal.toNat < s.cfg.boundaries := by
  rw [needMore, hp, decide_eq_true_iff]

theorem needMore_eq_of_locked (hp : s.se.phase = .locked) :
    needMore s = true ↔ s.se.h.toNat < s.se.ticksToNextTx.toNat ∧ s.se.ticksToNextTx.toNat < s.cfg.boundaries := by
  rw [needMore, hp, decide_eq_true_iff]

/-- needMore asks for the next boundary iff its SYNC_NEXT emits, or does not and asks for a later one itself. -/
theorem needMore_iff_of_syncNext (hs : Polled s)
    (hcall : TimingCall s (.syncNext pct dbl) pct dbl (s.se.h.toNat + 1) 0 passed)
    (hexec : exec (.syncNext pct dbl) s = .next t) : needMore s = true ↔ Emits s t ∨ needMore t = true := by
  obtain ⟨hinv, hpair⟩ := hs
  have hlt := hcall.boundary_lt
  have hboundary := hcall.boundary_toNat
  cases hp : s.se.phase with
  | unsynced =>
    obtain rfl := eq_of_exec (anInvalidPairKeepsTheEngineUnsynced _ _ _ _ _ _ _ hcall hp (hpair hp)) hexec
    refine iff_of_false (ne_true_of_eq_false (needMore_of_unsynced hp)) (not_or.mpr ⟨Nat.ne_add_one _, ?_⟩)
    exact ne_true_of_eq_false (needMore_of_unsynced hp)
  | countingDown =>
    obtain ⟨_, _, _, ⟨hodd, _⟩, _⟩ := (SyncEngine.inv_iff_of_countingDown hp).mp hinv
    obtain ⟨t', hexec', hcfg, _, hwait, hstep⟩ := theCountdownStepSendsAndCountsDown _ _ _ _ _ _ _ hcall hp
    obtain rfl := eq_of_exec hexec' hexec
    obtain ⟨hnext, hlater⟩ := next_even_boundary s.cfg hlt
    rw [needMore_eq_of_countingDown hp]
    obtain heven | hodd' := Nat.mod_two_eq_zero_or_one (s.se.h.toNat + 1)
    · obtain ⟨hsend, _⟩ := hstep heven
      obtain ⟨_, hsends, _⟩ := hsend hodd
      exact iff_of_true (hnext heven) (.inl hsends.emits)
    · obtain ⟨hse, hsends⟩ := hwait hodd'
      have hphase := (congrArg SyncEngine.phase hse).trans hp
      have hh := (congrArg (fun se => se.h.toNat) hse).trans hboundary
      rw [or_iff_right hsends.not_emits, needMore_eq_of_countingDown hphase, hcfg, hh]
      exact hlater hodd'
  | awaitingFinal =>
    obtain ⟨_, _, _, ⟨_, hahead, _⟩, _⟩ := (SyncEngine.inv_iff_of_awaitingFinal hp).mp hinv
    rw [needMore_eq_of_awaitingFinal hp]
    by_cases hdue : s.se.ticksToFinal.toNat = s.se.h.toNat + 1
    · obtain ⟨t', _, _, hexec', _, _, _, hsends, _⟩ := theSyncFinalLocksTheEngine _ _ _ _ _ _ _ hcall hp hdue
      obtain rfl := eq_of_exec hexec' hexec
      exact iff_of_true ⟨hahead, hdue ▸ hlt⟩ (.inl hsends.emits)
    · obtain ⟨hfinal, _⟩ := aCallBeforeTheDueBoundarySendsNothing _ _ _ _ _ _ _ hcall
      obtain ⟨t', hexec', hcfg, _, hsends, hse⟩ := hfinal hp hdue
      obtain rfl := eq_of_exec hexec' hexec
      have hphase := (congrArg SyncEngine.phase hse).trans hp
      have hh := (congrArg (fun se => se.h.toNat) hse).trans hboundary
      have hticks := (congrArg (fun se => se.ticksToFinal.toNat) hse).trans (lowerIndex_toNat 0 s.se.ticksToFinal)
      rw [or_iff_right hsends.not_emits, needMore_eq_of_awaitingFinal hphase, hcfg, hh, hticks]
      exact due_inside_iff hahead hdue
  | locked =>
    obtain ⟨_, _, ⟨_, hahead, _⟩, _⟩ := (SyncEngine.inv_iff_of_locked hp).mp hinv
    rw [needMore_eq_of_locked hp]
    by_cases hdue : s.se.ticksToNextTx.toNat = s.se.h.toNat + 1
    · obtain ⟨t', _, _, hexec', _, _, _, hsends, _⟩ := theSteadySendCarriesTheCallsPercent _ _ _ _ _ _ _ hcall hp hdue
      obtain rfl := eq_of_exec hexec' hexec
      exact iff_of_true ⟨hahead, hdue ▸ hlt⟩ (.inl hsends.emits)
    · obtain ⟨_, hsteady⟩ := aCallBeforeTheDueBoundarySendsNothing _ _ _ _ _ _ _ hcall
      obtain ⟨t', hexec', hcfg, _, hsends, hse⟩ := hsteady hp hdue
      obtain rfl := eq_of_exec hexec' hexec
      have hphase := (congrArg SyncEngine.phase hse).trans hp
      have hh := (congrArg (fun se => se.h.toNat) hse).trans hboundary
      have hticks := (congrArg (fun se => se.ticksToNextTx.toNat) hse).trans (lowerIndex_toNat 0 s.se.ticksToNextTx)
      rw [or_iff_right hsends.not_emits, needMore_eq_of_locked hphase, hcfg, hh, hticks]
      exact due_inside_iff hahead hdue

/-! ### needMore over the rest of the minor cycle -/

/-- The `k`-th SYNC_NEXT after this state is still one of its minor cycle, and it emits an event. -/
def EmitsAt (pct : Byte) (dbl : Bool) (s : State) (k : Nat) : Prop :=
  ∃ u v : State, s.se.h.toNat + k + 1 < s.cfg.boundaries
    ∧ execAll (List.replicate k (.syncNext pct dbl)) s = .next u
    ∧ exec (.syncNext pct dbl) u = .next v ∧ Emits u v

theorem emitsAt_zero (hlt : s.se.h.toNat + 1 < s.cfg.boundaries) (hexec : exec (.syncNext pct dbl) s = .next t) :
    EmitsAt pct dbl s 0 ↔ Emits s t := by
  constructor
  · rintro ⟨u, v, _, hrun, hexec', hemits⟩
    obtain rfl := Host.Outcome.next.inj hrun
    obtain rfl := eq_of_exec hexec hexec'
    exact hemits
  · exact fun hemits => ⟨s, t, hlt, rfl, hexec, hemits⟩

theorem emitsAt_succ (hexec : exec (.syncNext pct dbl) s = .next t) (hcfg : t.cfg = s.cfg)
    (hh : t.se.h.toNat = s.se.h.toNat + 1) (k : Nat) : EmitsAt pct dbl s (k + 1) ↔ EmitsAt pct dbl t k := by
  simp only [EmitsAt, List.replicate_succ, execAll_cons hexec, hcfg, hh, Nat.add_right_comm _ 1 k, Nat.add_assoc]

theorem not_emitsAt_of_last (hlast : s.cfg.boundaries ≤ s.se.h.toNat + 1) (k : Nat) : ¬ EmitsAt pct dbl s k := by
  rintro ⟨_, _, hlt, _⟩
  omega

/-- needMore is 1 iff one of the boundaries left in the minor cycle emits: by the number of them. -/
theorem needMore_iff_emitsAt (pct : Byte) (dbl : Bool) (n : Nat) (s : State) (hs : Polled s)
    (hn : s.cfg.boundaries ≤ s.se.h.toNat + 1 + n) : needMore s = true ↔ ∃ k, EmitsAt pct dbl s k := by
  have hinv := hs.left
  induction n generalizing s with
  | zero =>
    rw [needMore_of_last hinv hn]
    exact iff_of_false Bool.false_ne_true (not_exists.mpr (not_emitsAt_of_last hn))
  | succ n ih =>
    by_cases hlast : s.cfg.boundaries ≤ s.se.h.toNat + 1
    · rw [needMore_of_last hinv hlast]
      exact iff_of_false Bool.false_ne_true (not_exists.mpr (not_emitsAt_of_last hlast))
    have hlt := Nat.lt_of_not_le hlast
    have hcall : TimingCall s (.syncNext pct dbl) pct dbl (s.se.h.toNat + 1) 0 1 := .inr ⟨rfl, rfl, hlt, rfl, rfl⟩
    obtain ⟨t, hexec, hpolled, hcfg, hh⟩ :
        ∃ t, exec (.syncNext pct dbl) s = .next t ∧ Polled t ∧ t.cfg = s.cfg ∧ t.se.h.toNat = s.se.h.toNat + 1 :=
      ⟨_, hcall.exec_eq, hcall.polled hinv, hcall.frame.cfg, hcall.exec_h⟩
    have hrest := ih t hpolled (by rw [hcfg, hh]; omega) hpolled.left
    calc needMore s = true
      _ ↔ Emits s t ∨ needMore t = true := needMore_iff_of_syncNext hs hcall hexec
      _ ↔ EmitsAt pct dbl s 0 ∨ ∃ k, EmitsAt pct dbl t k :=
        or_congr (emitsAt_zero hlt hexec).symm hrest
      _ ↔ EmitsAt pct dbl s 0 ∨ ∃ k, EmitsAt pct dbl s (k + 1) := by simp only [emitsAt_succ hexec hcfg hh]
      _ ↔ ∃ k, EmitsAt pct dbl s k := Nat.or_exists_add_one

end

theorem boolByte_cases (b : Bool) : (boolByte b = 0 ∨ boolByte b = 1) ∧ (boolByte b = 1 ↔ b = true) := by
  cases b <;> decide

/-- Settles O28. -/
theorem needMoreSaysThatALaterBoundaryActs : Obligations.NeedMoreSaysThatALaterBoundaryActs := by
  intro s t i pct dbl h lowered passed pct' dbl' hcall hs hexec
  obtain ⟨hrange, hone⟩ := boolByte_cases (needMore t)
  obtain rfl := eq_of_exec hcall.exec_eq hexec
  refine ⟨_, hcall.responses, hrange, hone.trans ?_⟩
  rw [needMore_iff_emitsAt pct' dbl' _ _ (hcall.polled hs) (Nat.le_add_left ..)]
  simp only [EmitsAt, hcall.exec_h, hcall.frame.cfg]
  rfl

end Sys2Proof.Machine
end

section
/-!
Proofs about the send results (R54, R183): they decide nothing but `SE.flag`.
-/
namespace Sys2Proof.Machine

/-! ### States that differ in what the send results decide -/

/-- Two interfaces with the same requests, responses and sent frames; the supply, the draws and the results noted may
differ. -/
def Io.SameSent (io io' : Io) : Prop :=
  io'.requests = io.requests ∧ io'.responses = io.responses ∧ io'.events.map TxEvent.sent = io.events.map TxEvent.sent

theorem Io.SameSent.sends {io io' out out' : Io} (h : io.SameSent io') {frame : List Byte} {copies : Copies} {ok ok' : Bool}
    (hsends : io.Sends out frame copies ok) (hsends' : io'.Sends out' frame copies ok') : out.SameSent out' := by
  obtain ⟨hrequests, hresponses, hevents⟩ := h
  obtain ⟨_, _, _, _, rfl⟩ := hsends
  obtain ⟨_, _, _, _, rfl⟩ := hsends'
  refine ⟨hrequests, hresponses, ?_⟩
  simp only [Io.emit, List.map_append, List.map_cons, List.map_nil, hevents, TxEvent.sent]

/-- The state with another flag and another interface. -/
def withResults (flag : Bool) (io : Io) (s : State) : State := { s with se.flag := flag, io := io }

/-- Two states that differ only in `SE.flag` and in the send results, drawn or still to be drawn. -/
def SameButResults (s s' : State) : Prop :=
  ∃ (flag : Bool) (io' : Io), s' = withResults flag io' s ∧ s.io.SameSent io'

section
variable {s s' : State}

theorem SameButResults.compose (h : SameButResults s s') (op ext : Byte) :
    SameButResults (compose op ext s) (compose op ext s') := by
  obtain ⟨flag, io', rfl, hio⟩ := h
  exact ⟨flag, io', by dsimp only [withResults, Machine.compose], by rwa [compose_io]⟩

theorem SameButResults.composeValveSet (h : SameButResults s s') (pct : Byte) :
    SameButResults (composeValveSet pct s) (composeValveSet pct s') := by
  obtain ⟨flag, io', rfl, hio⟩ := h
  exact ⟨flag, io', by dsimp only [withResults, Machine.composeValveSet, Machine.compose], by rwa [composeValveSet_io]⟩

theorem SameButResults.countdownAdvance (h : SameButResults s s') :
    SameButResults (countdownAdvance s) (countdownAdvance s') := by
  obtain ⟨flag, io', rfl, hio⟩ := h
  refine ⟨flag, io', ?_, by rwa [countdownAdvance_io]⟩
  by_cases hone : s.se.countdown - 2 = 1 <;> simp only [Machine.countdownAdvance, withResults, hone] <;> rfl

theorem SameButResults.countdownStep (h : SameButResults s s') :
    SameButResults (countdownStep s) (countdownStep s') := by
  obtain ⟨flag, io', rfl, hio⟩ := id h
  obtain heven | hodd := Nat.mod_two_eq_zero_or_one s.se.h.toNat
  · obtain hcount | hcount := Nat.mod_two_eq_zero_or_one s.se.countdown.toNat
    · rw [countdownStep_of_even_countdown heven hcount,
        countdownStep_of_even_countdown (s := withResults flag io' s) heven hcount]
      exact h.countdownAdvance
    · obtain ⟨_, out, hsends, hstep⟩ := countdownStep_of_odd_countdown heven hcount
      obtain ⟨_, out', hsends', hstep'⟩ := countdownStep_of_odd_countdown (s := withResults flag io' s) heven hcount
      rw [hstep, hstep']
      exact SameButResults.countdownAdvance ⟨flag, out', by dsimp only [withResults], hio.sends hsends hsends'⟩
  · rw [countdownStep_of_odd_boundary hodd, countdownStep_of_odd_boundary (s := withResults flag io' s) hodd]
    exact h

theorem SameButResults.finalStep (h : SameButResults s s') (pct : Byte) :
    SameButResults (finalStep pct s) (finalStep pct s') := by
  obtain ⟨flag, io', rfl, hio⟩ := id h
  by_cases hdue : s.se.ticksToFinal = s.se.h
  · obtain ⟨_, out, hsends, hstep⟩ := finalStep_of_due pct hdue
    obtain ⟨_, out', hsends', hstep'⟩ := finalStep_of_due pct (s := withResults flag io' s) hdue
    rw [hstep, hstep']
    exact ⟨false, out', by dsimp only [withResults, dueIndex], hio.sends hsends hsends'⟩
  · have hwait : Machine.finalStep pct s = s := if_neg hdue
    have hwait' : Machine.finalStep pct (withResults flag io' s) = withResults flag io' s := if_neg hdue
    rwa [hwait, hwait']

theorem SameButResults.steadyStep (h : SameButResults s s') (pct : Byte) (dbl : Bool) :
    SameButResults (steadyStep pct dbl s) (steadyStep pct dbl s') := by
  obtain ⟨flag, io', rfl, hio⟩ := id h
  by_cases hdue : s.se.ticksToNextTx = s.se.h
  · obtain ⟨_, out, hsends, hstep⟩ := steadyStep_of_due pct dbl hdue
    obtain ⟨_, out', hsends', hstep'⟩ := steadyStep_of_due pct dbl (s := withResults flag io' s) hdue
    rw [hstep, hstep']
    exact ⟨_, out', by dsimp only [withResults, dueIndex], hio.sends hsends hsends'⟩
  · have hwait : Machine.steadyStep pct dbl s = s := if_neg hdue
    have hwait' : Machine.steadyStep pct dbl (withResults flag io' s) = withResults flag io' s := if_neg hdue
    rwa [hwait, hwait']

theorem SameButResults.act (h : SameButResults s s') (pct : Byte) (dbl : Bool) :
    SameButResults (act pct dbl s) (act pct dbl s') := by
  obtain ⟨flag, io', rfl, hio⟩ := id h
  cases hp : s.se.phase with
  | unsynced =>
    by_cases hpair : s.se.hc1.toNat ≤ 99 ∧ s.se.hc2.toNat ≤ 99
    · rw [act_of_valid_pair pct dbl hp hpair, act_of_valid_pair (s := withResults flag io' s) pct dbl hp hpair]
      exact SameButResults.countdownStep ⟨flag, io', rfl, hio⟩
    · rwa [act_of_invalid_pair pct dbl hp hpair, act_of_invalid_pair (s := withResults flag io' s) pct dbl hp hpair]
  | countingDown =>
    rw [act_of_countingDown pct dbl s hp, act_of_countingDown pct dbl (withResults flag io' s) hp]
    exact h.countdownStep
  | awaitingFinal =>
    rw [act_of_awaitingFinal pct dbl s hp, act_of_awaitingFinal pct dbl (withResults flag io' s) hp]
    exact h.finalStep pct
  | locked =>
    rw [act_of_locked pct dbl s hp, act_of_locked pct dbl (withResults flag io' s) hp]
    exact h.steadyStep pct dbl

theorem SameButResults.respondOk (h : SameButResults s s') (payload : List Byte) :
    SameButResults (respondOk payload s) (respondOk payload s') := by
  obtain ⟨flag, io', rfl, hrequests, hresponses, hevents⟩ := h
  exact ⟨flag, _, rfl, hrequests, congrArg (· ++ [statusOk :: payload]) hresponses, hevents⟩

theorem SameButResults.needMore_eq (h : SameButResults s s') : needMore s' = needMore s := by
  obtain ⟨_, _, rfl, _⟩ := h
  rfl

theorem SameButResults.actAndRespond (h : SameButResults s s') (pct : Byte) (dbl : Bool) :
    SameButResults (actAndRespond pct dbl s) (actAndRespond pct dbl s') := by
  have hact := h.act (preparePct pct) dbl
  rw [Machine.actAndRespond, Machine.actAndRespond, hact.needMore_eq]
  exact hact.respondOk _

theorem SameButResults.atBoundary (h : SameButResults s s') (boundary lowered : Nat) :
    SameButResults (atBoundary boundary lowered s) (atBoundary boundary lowered s') := by
  obtain ⟨flag, io', rfl, hio⟩ := h
  exact ⟨flag, io', rfl, hio⟩

end

/-! ### Every instruction -/

/-- The state with another supply of send results (R54). -/
def withSupply (results : List Bool) (draws : Nat) (s : State) : State :=
  { s with io.sendResults := results, io.drawCount := draws }

theorem sameButResults_withSupply (results : List Bool) (draws : Nat) (s : State) :
    SameButResults s (withSupply results draws s) :=
  ⟨s.se.flag, _, rfl, rfl, rfl, rfl⟩

/-- What SUBMIT_REPORT answers and writes depends on the aggregator alone (R221). -/
theorem exec_submitReport_of_ag (id : Half) (pct : Byte) (ag : Aggregator) :
    ∃ (r : List Byte) (slots : List Slot), ∀ s : State, s.ag = ag →
      exec (.submitReport id pct) s = .next (respondOk r { s with ag.slots := slots }) := by
  by_cases hreject : id = emptyId ∨ 100 < pct.toNat
  · refine ⟨[0], ag.slots, ?_⟩
    rintro s rfl
    exact if_pos hreject
  · cases hslot : reportSlot ag id pct with
    | none =>
      refine ⟨[0], ag.slots, ?_⟩
      rintro s rfl
      show execSubmitReport id pct s = _
      rw [execSubmitReport, if_neg hreject, hslot]
    | some k =>
      refine ⟨[1], ag.slots.set k { id := id, ticksUntilOff := liveTicks, percentOpen := pct }, ?_⟩
      rintro s rfl
      show execSubmitReport id pct s = _
      rw [execSubmitReport, if_neg hreject, hslot]
      rfl

/-- Timing calls alone draw results; what another request does, it does beside them. -/
theorem exec_withSupply {s t : State} {i : Instr} (h : exec i s = .next t) (results : List Bool) (draws : Nat) :
    ∃ t' : State, exec i (withSupply results draws s) = .next t' ∧ SameButResults t t' := by
  have hsupply := sameButResults_withSupply results draws
  cases i with
  | syncFirst | syncNext =>
    obtain ⟨_, _, hi, hlast, rfl⟩ | ⟨_, _, _, _, _, hcall, rfl⟩ := exec_timing h rfl
    · rw [hi]
      exact ⟨_, exec_syncNext_of_last (s := withSupply results draws s) hlast _ _, hsupply _⟩
    · have hcall' : TimingCall (withSupply results draws s) _ _ _ _ _ _ := hcall
      exact ⟨_, hcall'.exec_eq, ((hsupply s).atBoundary _ _).actAndRespond _ _⟩
  | encode | decode | isLocked | getCommandedPct | getOpenFlag | isCallingForHeat | syncReset | aggTick | setThresholds =>
    obtain rfl := eq_of_exec rfl h
    exact ⟨_, rfl, hsupply _⟩
  | setHouseCode hc1 hc2 =>
    obtain ⟨hsame, hr⟩ | ⟨hnew, hr⟩ := exec_setHouseCode_cases hc1 hc2 s <;> obtain rfl := eq_of_exec hr h
    · exact ⟨_, if_neg (not_not_intro hsame), hsupply _⟩
    · exact ⟨_, if_pos hnew, hsupply _⟩
  | submitReport id pct =>
    obtain ⟨r, slots, hreport⟩ := exec_submitReport_of_ag id pct s.ag
    obtain rfl := eq_of_exec (hreport s rfl) h
    exact ⟨_, hreport (withSupply results draws s) rfl, hsupply _⟩
  | valveSet pct =>
    obtain rfl : t = composeValveSet pct s := eq_of_exec rfl h
    exact ⟨_, rfl, (hsupply s).composeValveSet pct⟩
  | syncCountdown c =>
    obtain rfl : t = compose s.cfg.opcSyncCountdown c s := eq_of_exec rfl h
    exact ⟨_, rfl, (hsupply s).compose _ c⟩
  | syncFinal =>
    obtain rfl : t = compose s.cfg.opcSyncFinal 0 s := eq_of_exec rfl h
    exact ⟨_, rfl, (hsupply s).compose _ 0⟩

/-- Settles O40. -/
theorem sendResultsDecideOnlyTheOpenFlag : Obligations.SendResultsDecideOnlyTheOpenFlag := by
  intro s t t' i results draws h h'
  obtain ⟨u, hu, flag, io', hstate, hrequests, hresponses, hevents⟩ := exec_withSupply h results draws
  obtain rfl := eq_of_exec hu h'
  rw [hstate]
  exact ⟨rfl, rfl, rfl, hrequests, hresponses, hevents⟩

end Sys2Proof.Machine
end

section
/-!
Proofs about the exceptions (60_exceptions.md): the half-second overrun (R264), and the one response that every packet gets
(R260, R262, R268, R307).
-/
namespace Sys2Proof.Machine

/-! ### The half-second overrun -/

/-- Settles O29. -/
theorem aSyncNextPastTheCycleIsRefusedWithoutAChange : Obligations.ASyncNextPastTheCycleIsRefusedWithoutAChange :=
  fun _ pct dbl hlast => exec_syncNext_of_last hlast pct dbl

/-! ### One response to every packet -/

/-- The status bytes of R262 other than OK: the decode errors, and the two request faults. -/
def errorStatuses : List Byte := [0x01, 0x02, 0x03, 0x04, 0x05, 0x06, 0x80, 0x81]

theorem DecodeError.status_mem (e : DecodeError) : e.status ∈ errorStatuses := by
  cases e <;> decide

theorem RequestFault.status_mem (f : RequestFault) : f.status ∈ errorStatuses := by
  cases f <;> decide

/-- From `s` to `t` one response goes out: an OK response with its payload, or an error status alone, and then nothing else
is written (R260, R262, R268). -/
def AnswersOnce (s t : State) : Prop :=
  (∃ payload : List Byte, t.io.responses = s.io.responses ++ [statusOk :: payload])
  ∨ ∃ status ∈ errorStatuses, t = respond [status] s

theorem answersOnce_respondOk {s u : State} (payload : List Byte) (h : u.io.responses = s.io.responses) :
    AnswersOnce s (respondOk payload u) :=
  .inl ⟨payload, by rw [respondOk_io_responses, h]⟩

theorem answersOnce_raiseFault (f : RequestFault) (s : State) : AnswersOnce s (raiseFault f s) :=
  .inr ⟨f.status, f.status_mem, rfl⟩

theorem answersOnce_decodeResponse (r : Except DecodeError Command) (s : State) :
    AnswersOnce s (respond (decodeResponse r) s) := by
  cases r with
  | ok c => exact answersOnce_respondOk [c.hc1, c.hc2, c.opcode, c.ext] rfl
  | error e => exact .inr ⟨e.status, e.status_mem, rfl⟩

/-- A timing call answers `needMore`, or it is one too many for the minor cycle (R171, R172, R264). -/
theorem exec_timing_answersOnce {s t : State} {i : Instr} (h : exec i s = .next t) (hi : isTiming i = true) :
    AnswersOnce s t := by
  obtain ⟨_, _, _, _, rfl⟩ | ⟨_, _, _, _, _, hcall, rfl⟩ := exec_timing h hi
  · exact answersOnce_raiseFault .halfSecondOverrun s
  · exact .inl ⟨_, hcall.responses⟩

/-- Every request runs to its end and answers once. The frame kinds are no requests and give no response (log entry 4). -/
theorem exec_answersOnce {i : Instr} (hrequest : i.isRequest = true) (s : State) :
    ∃ t : State, exec i s = .next t ∧ AnswersOnce s t := by
  cases i with
  | decode bytes => exact ⟨_, rfl, answersOnce_decodeResponse (decodeFrame bytes) s⟩
  | syncFirst pct dbl =>
    obtain ⟨⟨t, h⟩, _⟩ := exec_timing_next s pct dbl
    exact ⟨t, h, exec_timing_answersOnce h rfl⟩
  | syncNext pct dbl =>
    obtain ⟨_, t, h⟩ := exec_timing_next s pct dbl
    exact ⟨t, h, exec_timing_answersOnce h rfl⟩
  | setHouseCode hc1 hc2 =>
    obtain ⟨_, h⟩ | ⟨_, h⟩ := exec_setHouseCode_cases hc1 hc2 s <;> exact ⟨_, h, answersOnce_respondOk [] rfl⟩
  | submitReport id pct =>
    obtain ⟨r, slots, h⟩ := exec_submitReport_writes id pct s
    exact ⟨_, h, answersOnce_respondOk r rfl⟩
  | encode | syncReset | isLocked | getCommandedPct | getOpenFlag | aggTick | setThresholds | isCallingForHeat =>
    exact ⟨_, rfl, answersOnce_respondOk _ rfl⟩
  | valveSet | syncCountdown | syncFinal => cases hrequest

/-- An illegal packet is answered with the fault, a legal one by its request (R110, R263). -/
theorem step_answersOnce {s : State} {p : List Byte} {rest : List (List Byte)} (hreq : s.io.requests = p :: rest) :
    ∃ t : State, step s = .next t ∧ t.io.requests = rest ∧ t.cfg = s.cfg ∧ AnswersOnce (takeRequest rest s) t := by
  obtain ⟨hempty, _⟩ | ⟨_, _, _, hreq', _, hstep⟩ | ⟨_, _, i, hreq', hdecode, hstep⟩ := step_cases s
  · rw [hreq] at hempty
    cases hempty
  · obtain ⟨rfl, rfl⟩ := List.cons.inj (hreq.symm.trans hreq')
    exact ⟨_, hstep, rfl, rfl, answersOnce_raiseFault .illegalRequest (takeRequest rest s)⟩
  · obtain ⟨rfl, rfl⟩ := List.cons.inj (hreq.symm.trans hreq')
    obtain ⟨t, hexec, hanswer⟩ := exec_answersOnce (decodePacket_isRequest hdecode) (takeRequest rest s)
    obtain ⟨hcfg, hrequests, _⟩ := everyInstructionLeavesTheOtherRegisters _ t i hexec
    exact ⟨t, hstep.trans hexec, hrequests, hcfg, hanswer⟩

/-- Settles O43. -/
theorem everyPacketGetsOneResponse : Obligations.EveryPacketGetsOneResponse := by
  intro s p rest hreq
  obtain ⟨t, hstep, hrequests, hcfg, ⟨payload, hok⟩ | ⟨status, hstatus, rfl⟩⟩ := step_answersOnce hreq
  · exact ⟨t, statusOk, payload, hstep, hrequests, hcfg, hok, List.mem_cons_self, fun hne => absurd rfl hne⟩
  · exact ⟨_, status, [], hstep, hrequests, hcfg, rfl, List.mem_cons_of_mem _ hstatus, fun _ => ⟨rfl, rfl⟩⟩

end Sys2Proof.Machine
end
